-- ==== Sys2Proof/Word.lean ====
section
/-!
DEFINITION. The widths of the data: bytes, 32-bit words, samples, channel selectors, and the four-byte wire frame.
-/
namespace Sys2Proof

/-- A byte of a wire frame or of memory. -/
abbrev Byte := BitVec 8

/-- A command word or a waveform slot (R4: `CMD_W` and `SLOT_W` are 32). -/
abbrev Word32 := BitVec 32

/-- A sample, 0 to 4095 (R4: `SAMPLE_W` is 12; R90: the encoder's port is exactly 12 bits wide). -/
abbrev Sample := BitVec 12

/-- A channel selector, an opaque 4-bit value (R4: `CHAN_W` is 4; R60). -/
abbrev Chan := BitVec 4

/-- The 4-byte wire frame `[F0, F1, F2, F3]` (R56): `f0` the frame opcode, `f1` the channel nibble and the high data
nibble, `f2` the low data byte, `f3` the tag. -/
structure Frame where
  f0 : Byte
  f1 : Byte
  f2 : Byte
  f3 : Byte
  deriving DecidableEq, Repr

end Sys2Proof
end

