-- ==== Sys2Proof/Machine/Encoder.lean ====
section
/-!
DEFINITION. The Wave Encoder, the pure function of 41_wave_encoder.md, and its inverse.
-/
namespace Sys2Proof.Machine

/-- `ENCODE(chan, sample, opcode, tag)` as R85 writes it: `F0 = opcode`, `F1 = (chan << 4) | (sample >> 8)`,
`F2 = sample & 0xFF`, `F3 = tag`. -/
def waveEncode (chan : Chan) (samp : Sample) (opcode tag : Byte) : Frame where
  f0 := opcode
  f1 := (chan.setWidth 8 <<< 4) ||| (samp >>> 8).setWidth 8
  f2 := (samp &&& 0x0FF#12).setWidth 8
  f3 := tag

/-- What the four bytes of a frame say: channel, sample, opcode, tag. -/
structure FrameContents where
  chan   : Chan
  samp   : Sample
  opcode : Byte
  tag    : Byte
  deriving DecidableEq, Repr

/-- `FrameFields(F) = (F1 >> 4, ((F1 & 0xF) << 8) | F2, F0, F3)` (R88). -/
def frameFields (f : Frame) : FrameContents where
  chan := (f.f1 >>> 4).setWidth 4
  samp := ((f.f1 &&& 0x0F#8).setWidth 12 <<< 8) ||| f.f2.setWidth 12
  opcode := f.f0
  tag := f.f3

end Sys2Proof.Machine
end

