-- ==== Sys2Proof/Config.lean ====
section
/-!
DEFINITION. What an implementation fixes: the constants of R4, the open parameters of R5 as a record that the state
carries and no step writes, and the one free value of the model.
-/
namespace Sys2Proof

/-- The open parameters of R5, plus which of the two buildable machines of R3 this one is. They are plain data in
`State.cfg`, so every statement about a state holds for all values of them. DESIGN CHOICE (log 26): an address is a natural
number without a bound, because the spec gives no width of one. Unsafe for a buffer that the device's address space cannot
hold. -/
structure Params where
  /-- R3: true where the front end (dispatcher, fixed and arbitrary generators) is built around the core; false for the
  core alone, driven at its ports (log 13). -/
  frontEnd   : Bool
  /-- `CMD_ADDR`, the byte address of the command register. -/
  cmdAddr    : Nat
  /-- `WB_BASE`, the byte address of slot 0 of the waveform buffer. -/
  wbBase     : Nat
  /-- `ARB_LEN`, how many slots an arbitrary run traverses; 0 is allowed (R126). -/
  arbLen     : Nat
  /-- `OPC_TRI`, the frame opcode of triangle frames. -/
  opcTri     : Byte
  /-- `TAG_TRI`, the tag of triangle frames. -/
  tagTri     : Byte
  /-- `OPC_ARB`, the frame opcode of arbitrary frames. -/
  opcArb     : Byte
  /-- `TAG_ARB`, the tag of arbitrary frames. -/
  tagArb     : Byte
  /-- `CMD_RESET`, what the command register holds when power comes up, or after a reset that rewrites it (R23, R151). -/
  cmdReset   : Word32
  /-- `INIT_FRAMES`, the frames boot sends before the first poll (R152). -/
  initFrames : List Frame
  deriving DecidableEq, Repr

/-- `OPC_UPDATE`, byte 0 of a DAC-update frame (R4). -/
def Config.opcUpdate : Byte := 0x03#8

/-- `TAG_UPDATE`, byte 3 of a DAC-update frame (R4). -/
def Config.tagUpdate : Byte := 0x55#8

/-- `DELAY_DEFAULT`, in microseconds (R4, R52). -/
def Config.delayDefault : Nat := 1000

/-- The values `State.reset` is built with. R5 recommends the defaults of the opcode and tag bytes and of
`INIT_FRAMES`. DESIGN CHOICE (log 2, log 3, log 13): the addresses, `ARB_LEN`, `CMD_RESET` and the presence of the front
end have no default in the spec; these values are the model's. Unsafe only for a statement about `State.reset` itself. -/
def Config.defaultParams : Params where
  frontEnd := true
  cmdAddr := 0
  wbBase := 4096
  arbLen := 2
  opcTri := Config.opcUpdate
  tagTri := Config.tagUpdate
  opcArb := Config.opcUpdate
  tagArb := Config.tagUpdate
  cmdReset := 0#32
  initFrames := []

/-- FREE VALUE (R43, decision D26; log 5). The answer to the `n`-th read of a waveform slot whose contents the model does
not know: a slot the producer is writing at that moment, or one that nothing has written. It has no body, so nothing can be
proved of its value. Safe. -/
opaque Config.slotDraw : Nat → Word32

end Sys2Proof
end

