-- ==== Sys2Proof/Syntax.lean ====
section
/-!
DEFINITION. The syntax: one constructor of `Instr` per row of the opcode table, the spec's own assembler notation, and the
moves of the agents outside the block.
-/
namespace Sys2Proof

/-- The three 32-bit formats of the encodings file (R64), the frame format with its two rows of the opcode table. -/
inductive Format where
  /-- the command word of R50 -/
  | cmd
  /-- the wire frame of R56, any opcode and tag -/
  | frame
  /-- the DAC-update class of wire frames of R57 -/
  | dacUpdate
  /-- the waveform slot of R58 -/
  | slot
  deriving DecidableEq, Repr

/-- One constructor per row of the opcode table. Every bit of the 32-bit word that a row does not fix is an argument, from
the most significant field down, the ignored ones too, so that an instruction and its word determine each other. -/
inductive Instr where
  /-- IDLE (R71): a word with `busy = 0`; `rest` is bits 31:1, ignored entirely. -/
  | idle (rest : BitVec 31)
  /-- NOP (R75): bits 3:0 are 0001; the fields are latched and otherwise ignored. -/
  | nop (vd : BitVec 12) (chan : Chan) (cyc : BitVec 8) (rsvd : BitVec 4)
  /-- FIXED (R95): bits 1:0 are 11; `val` is the sample, `m3` and `m2` the two lower-priority flags. -/
  | fixed (val : Sample) (chan : Chan) (cyc : BitVec 8) (rsvd : BitVec 4) (m3 m2 : BitVec 1)
  /-- TRI (R100): bits 2:0 are 101; `vd` is the raw delay, `cyc` the cycle count, `m3` the lower-priority flag. -/
  | tri (vd : BitVec 12) (chan : Chan) (cyc : BitVec 8) (rsvd : BitVec 4) (m3 : BitVec 1)
  /-- ARB (R120): bits 3:0 are 1001; `vd` and `cyc` have no effect on the run. -/
  | arb (vd : BitVec 12) (chan : Chan) (cyc : BitVec 8) (rsvd : BitVec 4)
  /-- ENCODE (R85): the Wave Encoder's four inputs, in the order they take in the frame. -/
  | encode (opcode : Byte) (chan : Chan) (samp : Sample) (tag : Byte)
  /-- FRAME.DACUPDATE (R57): a frame with opcode 0x03 and tag 0x55. -/
  | frameDacUpdate (chan : Chan) (samp : Sample)
  /-- SLOT (R58): a waveform slot; `ignored` is bits 31:24. -/
  | slot (ignored : Byte) (high low : Sample)
  deriving DecidableEq, Repr

/-- Which format an instruction's word is in. -/
def Instr.format : Instr → Format
  | .idle .. | .nop .. | .fixed .. | .tri .. | .arb .. => .cmd
  | .encode .. => .frame
  | .frameDacUpdate .. => .dacUpdate
  | .slot .. => .slot

/-- The assembler notation of R62, the spec's own. -/
inductive Asm where
  /-- `NOP` -/
  | nop
  /-- `FIXED ch, val` -/
  | fixed (ch : Chan) (val : Sample)
  /-- `TRI ch, cyc, vd` -/
  | tri (ch : Chan) (cyc : BitVec 8) (vd : BitVec 12)
  /-- `ARB ch, cyc` -/
  | arb (ch : Chan) (cyc : BitVec 8)
  /-- `.word w` -/
  | word (w : Word32)
  deriving DecidableEq, Repr

/-- How a reset by the environment falls (R150, R151, decision D20; log 9). -/
structure ResetMove where
  /-- The block is inside its next step when the reset falls, and this many events of that step have happened; 0 is a reset
  between two steps. -/
  afterEvents   : Nat
  /-- Whether the reset also rewrites the memory that holds the command register, with `CMD_RESET` (R151). -/
  rewritesCmd   : Bool
  /-- Whether the waveform buffer's memory loses its contents (a power cycle). -/
  losesBuffer   : Bool
  deriving DecidableEq, Repr

/-- What one agent does next. `State.agenda` lists these, oldest first (log 7). -/
inductive Move where
  /-- The block takes one step. -/
  | block
  /-- The host stores a 32-bit word in the command register, between two steps of the block (R40, R41). -/
  | hostWrite (w : Word32)
  /-- The same store, landing inside the block's next step, after `afterEvents` of that step's events (R41, R132, R155). -/
  | hostWriteIn (afterEvents : Nat) (w : Word32)
  /-- The producer begins to write slot `i`: until it has finished, a read of the slot may see anything (R43). -/
  | slotBegin (i : Nat)
  /-- The producer's 32-bit store of `v` in slot `i` is complete (R39, R43). -/
  | slotWrite (i : Nat) (v : Word32)
  /-- The environment resets the whole system (R44, R150). -/
  | reset (r : ResetMove)
  /-- In the core alone: the start port of the triangle sequencer (R108). -/
  | triStart (chan : Chan) (cycles delay : Nat)
  /-- In the core alone: the four input ports of the Wave Encoder (R86). -/
  | encPort (opcode : Byte) (chan : Chan) (samp : Sample) (tag : Byte)
  deriving DecidableEq, Repr

end Sys2Proof
end

