-- ==== Sys2Proof/WellFormed.lean ====
section
/-!
DEFINITION. The checks: which configurations the spec gives a meaning (R34, R48), which instructions are well formed, and
which of them the assembler of R62 writes.
-/
namespace Sys2Proof

/-- R34 and R48 (decision D12): both addresses are multiples of 4 and the buffer's `4*ARB_LEN` bytes do not contain
`CMD_ADDR`. The core alone has neither a command register nor a waveform buffer (P7), so every configuration of it is
well formed. -/
def Params.wf (p : Params) : Bool :=
  !p.frontEnd ||
    (p.cmdAddr % 4 == 0 && p.wbBase % 4 == 0 &&
      !(decide (p.wbBase ≤ p.cmdAddr) && decide (p.cmdAddr < p.wbBase + 4 * p.arbLen)))

/-- Every instruction is well formed: each argument has exactly the width of its field (R86, R90), every one of the 2^32
command words has a defined effect (R61), and every encoder input encodes (R85). -/
def Instr.wf : Instr → Bool
  | .idle .. | .nop .. | .fixed .. | .tri .. | .arb .. | .encode .. | .frameDacUpdate .. | .slot .. => true

/-- The commands the assembler of R62 writes: `busy` set, every unused field, lower-priority flag and bit 7:4 zero. An IDLE
word and the two other formats are no commands. -/
def Instr.canonical : Instr → Bool
  | .idle .. | .encode .. | .frameDacUpdate .. | .slot .. => false
  | .nop vd chan cyc rsvd => vd == 0 && chan == 0 && cyc == 0 && rsvd == 0
  | .fixed _ _ cyc rsvd m3 m2 => cyc == 0 && rsvd == 0 && m3 == 0 && m2 == 0
  | .tri _ _ _ rsvd m3 => rsvd == 0 && m3 == 0
  | .arb vd _ _ rsvd => vd == 0 && rsvd == 0

end Sys2Proof
end

