-- ==== Sys2Proof/Decode.lean ====
section
/-!
DEFINITION. The decoders of the three formats, total on any 32-bit word, and after them the encoder, the assembler of R62
and the operation map of R55 as data. A word is a 32-bit number whose fields are bit positions, so no byte order enters
(R32).
-/
namespace Sys2Proof

/-! ## Fields of the command word (R50) -/

/-- `busy`, bit 0. -/
def busyBit (w : Word32) : Bool := w.getLsbD 0

/-- `m1`, bit 1. -/
def modeFlag1 (w : Word32) : Bool := w.getLsbD 1

/-- `m2`, bit 2. -/
def modeFlag2 (w : Word32) : Bool := w.getLsbD 2

/-- `m3`, bit 3. -/
def modeFlag3 (w : Word32) : Bool := w.getLsbD 3

/-- `value_or_delay`, bits 31:20. -/
def valueOrDelay (w : Word32) : BitVec 12 := w.extractLsb' 20 12

/-- `channel_selector`, bits 19:16. -/
def channelSelector (w : Word32) : Chan := w.extractLsb' 16 4

/-- `cycle_count`, bits 15:8. -/
def cycleCount (w : Word32) : BitVec 8 := w.extractLsb' 8 8

/-- Bits 7:4, which no passage of the source names (R54). -/
def unnamedBits (w : Word32) : BitVec 4 := w.extractLsb' 4 4

/-! ## The decoders -/

/-- The operation map of R55: the low four bits choose one of five operations, with bit 1 before bit 2 before bit 3 (R53).
Total: every one of the 2^32 words is one of them (R61). -/
def decodeCommand (w : Word32) : Instr :=
  if busyBit w then
    if modeFlag1 w then
      .fixed (valueOrDelay w) (channelSelector w) (cycleCount w) (unnamedBits w) (w.extractLsb' 3 1) (w.extractLsb' 2 1)
    else if modeFlag2 w then
      .tri (valueOrDelay w) (channelSelector w) (cycleCount w) (unnamedBits w) (w.extractLsb' 3 1)
    else if modeFlag3 w then
      .arb (valueOrDelay w) (channelSelector w) (cycleCount w) (unnamedBits w)
    else
      .nop (valueOrDelay w) (channelSelector w) (cycleCount w) (unnamedBits w)
  else
    .idle (w.extractLsb' 1 31)

/-- The four inputs of the frame written as the number `w`, byte 0 most significant (R56, R33). Total (R88). -/
def decodeFrame (w : Word32) : Instr :=
  .encode (w.extractLsb' 24 8) (w.extractLsb' 20 4) (w.extractLsb' 8 12) (w.extractLsb' 0 8)

/-- Why a word is not of a format. -/
inductive DecodeError where
  /-- Its opcode byte is not 0x03 or its tag is not 0x55, so it is no DAC-update frame (R57). -/
  | notDacUpdate
  deriving DecidableEq, Repr

/-- The DAC-update class of R57: opcode 0x03 and tag 0x55; any other frame is rejected by name. -/
def decodeDacUpdate (w : Word32) : Except DecodeError Instr :=
  if w.extractLsb' 24 8 = Config.opcUpdate ∧ w.extractLsb' 0 8 = Config.tagUpdate then
    .ok (.frameDacUpdate (w.extractLsb' 20 4) (w.extractLsb' 8 12))
  else
    .error .notDacUpdate

/-- R58: `high = slot[23:12]`, `low = slot[11:0]`; bits 31:24 are kept only so that the word can be written back. Total. -/
def decodeSlot (w : Word32) : Instr :=
  .slot (w.extractLsb' 24 8) (w.extractLsb' 12 12) (w.extractLsb' 0 12)

/-- A word read in a given format. -/
def decode (f : Format) (w : Word32) : Except DecodeError Instr :=
  match f with
  | .cmd => .ok (decodeCommand w)
  | .frame => .ok (decodeFrame w)
  | .dacUpdate => decodeDacUpdate w
  | .slot => .ok (decodeSlot w)

/-- The host's question about a row of the opcode table. The block fetches command words and nothing else (R12, R31), so the
word is read as one: 32 bits, every bit above `nbits` zero. A frame or a slot is the content of another interface and has
no word the block could fetch (log 12). -/
def decodeTableWord (nbits w : Nat) : Option Instr :=
  if nbits ≤ 32 ∧ w < 0x100000000 then some (decodeCommand (BitVec.ofNat 32 w)) else none

/-! ## The encoder -/

/-- The word of an instruction in its own format: each field at its place value (R50, R55, R56, R57, R58). -/
def encode : Instr → Word32
  | .idle rest => BitVec.ofNat 32 (rest.toNat * 2)
  | .nop vd chan cyc rsvd =>
      BitVec.ofNat 32 (vd.toNat * 0x100000 + chan.toNat * 0x10000 + cyc.toNat * 0x100 + rsvd.toNat * 0x10 + 0b0001)
  | .fixed val chan cyc rsvd m3 m2 =>
      BitVec.ofNat 32 (val.toNat * 0x100000 + chan.toNat * 0x10000 + cyc.toNat * 0x100 + rsvd.toNat * 0x10 +
        m3.toNat * 8 + m2.toNat * 4 + 0b11)
  | .tri vd chan cyc rsvd m3 =>
      BitVec.ofNat 32 (vd.toNat * 0x100000 + chan.toNat * 0x10000 + cyc.toNat * 0x100 + rsvd.toNat * 0x10 +
        m3.toNat * 8 + 0b101)
  | .arb vd chan cyc rsvd =>
      BitVec.ofNat 32 (vd.toNat * 0x100000 + chan.toNat * 0x10000 + cyc.toNat * 0x100 + rsvd.toNat * 0x10 + 0b1001)
  | .encode opcode chan samp tag =>
      BitVec.ofNat 32 (opcode.toNat * 0x1000000 + chan.toNat * 0x100000 + samp.toNat * 0x100 + tag.toNat)
  | .frameDacUpdate chan samp =>
      BitVec.ofNat 32 (0x03 * 0x1000000 + chan.toNat * 0x100000 + samp.toNat * 0x100 + 0x55)
  | .slot ignored high low =>
      BitVec.ofNat 32 (ignored.toNat * 0x1000000 + high.toNat * 0x1000 + low.toNat)

/-- R62: the command word the assembler writes, the unused fields and bits 7:4 zero and `busy` set. -/
def assemble : Asm → Word32
  | .nop => 0x00000001#32
  | .fixed ch val => (val.setWidth 32 <<< 20) ||| (ch.setWidth 32 <<< 16) ||| 0x3#32
  | .tri ch cyc vd =>
      (vd.setWidth 32 <<< 20) ||| (ch.setWidth 32 <<< 16) ||| (cyc.setWidth 32 <<< 8) ||| 0x5#32
  | .arb ch cyc => (ch.setWidth 32 <<< 16) ||| (cyc.setWidth 32 <<< 8) ||| 0x9#32
  | .word w => w

/-- A frame as one 32-bit number, byte 0 most significant: a writing convention of the spec (R33). -/
def Frame.toWord (f : Frame) : Word32 :=
  BitVec.ofNat 32 (f.f0.toNat * 0x1000000 + f.f1.toNat * 0x10000 + f.f2.toNat * 0x100 + f.f3.toNat)

/-! ## The operation map as data -/

/-- A row of the operation map of R55: a word `w` selects the row when `w & mask = match`. -/
structure OpRow where
  mask    : Word32
  pattern : Word32
  deriving DecidableEq, Repr

/-- `w & mask = match` (R55). -/
def OpRow.selects (r : OpRow) (w : Word32) : Bool := w &&& r.mask == r.pattern

/-- The five rows of R55, in the table's order: IDLE, NOP, FIXED, TRI, ARB. -/
def operationMap : List OpRow :=
  [⟨0x00000001#32, 0x00000000#32⟩, ⟨0x0000000F#32, 0x00000001#32⟩, ⟨0x00000003#32, 0x00000003#32⟩,
   ⟨0x00000007#32, 0x00000005#32⟩, ⟨0x0000000F#32, 0x00000009#32⟩]

/-- The mask and match, in the opcode table, of an instruction's row; the two pattern rows without a fixed bit have the
empty mask. -/
def Instr.row : Instr → OpRow
  | .idle .. => ⟨0x00000001#32, 0x00000000#32⟩
  | .nop .. => ⟨0x0000000F#32, 0x00000001#32⟩
  | .fixed .. => ⟨0x00000003#32, 0x00000003#32⟩
  | .tri .. => ⟨0x00000007#32, 0x00000005#32⟩
  | .arb .. => ⟨0x0000000F#32, 0x00000009#32⟩
  | .encode .. => ⟨0#32, 0#32⟩
  | .frameDacUpdate .. => ⟨0xFF0000FF#32, 0x03000055#32⟩
  | .slot .. => ⟨0#32, 0#32⟩

end Sys2Proof
end

