-- ==== Sys2Proof/Machine/State.lean ====
section
/-!
DEFINITION. The machine's state as plain data: every register of 10_state.md, the command register, the waveform memory,
the boot position, and the model's own trace, agenda and draw counter. The reasons a step can stop.
-/
namespace Sys2Proof.Machine

/-- `disp_state` (R13). -/
inductive DispState where
  /-- reading the command register, waiting for `busy = 1` -/
  | polling
  /-- carrying out an accepted command word -/
  | running
  deriving DecidableEq, Repr

/-- `op_mode` (R14, R53): modes 0 to 3 in this order. -/
inductive Mode where
  /-- mode 0, the no-op -/
  | noop
  /-- mode 1 -/
  | fixed
  /-- mode 2 -/
  | triangle
  /-- mode 3 -/
  | arbitrary
  deriving DecidableEq, Repr

/-- `tri_phase` (R15). -/
inductive Phase where
  /-- no triangle run in progress -/
  | idle
  /-- in an ascending sweep -/
  | up
  /-- in a descending sweep -/
  | down
  deriving DecidableEq, Repr

/-- `dev_handle` (R21): its contents are opaque, so only how far boot has come with it is kept (log 17). -/
inductive DevHandle where
  /-- before `open` -/
  | invalid
  /-- what `open` returned -/
  | opened
  /-- what `configure` returned -/
  | configured
  deriving DecidableEq, Repr

/-- How far boot has come (R152): `open`, `configure`, the frames of `INIT_FRAMES` in order, then the loop. -/
inductive BootStage where
  /-- `open` is next -/
  | opening
  /-- `configure` is next -/
  | configuring
  /-- these frames are still to be sent -/
  | sending (left : List Frame)
  /-- boot is over -/
  | done
  deriving DecidableEq, Repr

/-- The operand latches (R14). -/
structure OpLatches where
  mode   : Mode
  chan   : Chan
  vd     : BitVec 12
  cycles : BitVec 8
  deriving DecidableEq, Repr

/-- The triangle sequencer's registers (R15 to R18). `left` and `delay` are natural numbers: the generator is defined for
every cycle count and delay (R100, decision D18), and the command path keeps them inside 8 and 12 bits (log 14).
`returned` is the level of the `tri_done` port (R108): a run has returned, and none has been started since (log 25). -/
structure TriRegs where
  phase    : Phase
  sample   : Sample
  left     : Nat
  forever  : Bool
  chan     : Chan
  delay    : Nat
  returned : Bool
  deriving DecidableEq, Repr

/-- The events of the trace (R7). -/
inductive Event where
  /-- `Poll(w)`: the block read the command register and saw `w` -/
  | poll (w : Word32)
  /-- `Tx(F)`: the block handed the frame to the Bus Transport and the call returned -/
  | tx (f : Frame)
  /-- `Wait(d)`: the block called `delay(d)`, in microseconds, and the call returned -/
  | wait (d : Nat)
  /-- `SlotRd(i, v)`: the block read slot `i` and got `v` -/
  | slotRd (i : Nat) (v : Word32)
  /-- `Clear`: the block wrote 0 to the command register -/
  | clear
  deriving DecidableEq, Repr

/-- The whole machine. The last three fields are the model's own: the observation of R7, the moves of the agents that are
still to come (R6, log 7), and the count of free slot values drawn so far (log 5). -/
structure State where
  /-- the open parameters, which no step writes (R5) -/
  cfg       : Params
  /-- the boot position (R152) -/
  boot      : BootStage
  /-- `dev_handle` (R21) -/
  devHandle : DevHandle
  /-- `CMDREG`, the word at `CMD_ADDR` (R10) -/
  cmdreg    : Word32
  /-- `disp_state` (R13) -/
  dispState : DispState
  /-- `op_mode`, `op_chan`, `op_vd`, `op_cycles` (R14) -/
  op        : OpLatches
  /-- `tri_phase`, `tri_sample`, `tri_left`, `tri_forever`, `tri_chan`, `tri_delay` (R15 to R18), `tri_done` (R108) -/
  tri       : TriRegs
  /-- `arb_index` (R20) -/
  arbIndex  : Nat
  /-- `FB[0..3]` (R19) -/
  fb        : Frame
  /-- `WAVEBUF`: the bytes of the waveform memory that something has written, sorted by address (R39) -/
  mem       : List Host.Cell
  /-- the slots that the producer is in the middle of writing, no slot twice (R43) -/
  inFlight  : List Nat
  /-- free slot values drawn so far -/
  draws     : Nat
  /-- the trace, oldest event first (R7) -/
  trace     : List Event
  /-- what the agents do next, oldest first; empty: the block runs alone -/
  agenda    : List Move
  deriving DecidableEq, Repr

/-- The block has no fault outcome: the list of exception causes is empty (R130, R145). A closed inductive with no
constructor, so that no step can raise one (log 21). -/
inductive Fault
  deriving DecidableEq, Repr

/-- Why a step answers nothing. -/
inductive Refusal where
  /-- Raised by an arm of `exec` whose instruction has no meaning yet. Safe: nothing is claimed of it. -/
  | notModelled (mnemonic : String)
  /-- Raised by `step` in a configuration that R34 and R48 give no meaning (decision D12: a model refuses it). Safe. -/
  | illegalConfig
  /-- Raised by `step` for a move that the agent's interface does not have: a slot outside the buffer, a port that is wired
  to the front end, or a command register the core alone lacks (R30, R42, P7). Safe: no move of the spec is lost. -/
  | noSuchMove
  deriving DecidableEq, Repr

/-- The three outcomes of a step of this machine. -/
abbrev Result := Host.Outcome State Fault Refusal

/-- The machine right after power-up with the parameters `p` (R23, R150): polling, no triangle run and none returned,
the handle invalid and boot still to run, the command register at `CMD_RESET`, nothing known of the waveform memory.
DESIGN CHOICE (log 1): the data registers, which R23 leaves unspecified, are zero; each is written before it is read.
Unsafe for a claim about one of them before its first write. -/
def State.resetWith (p : Params) : State where
  cfg := p
  boot := .opening
  devHandle := .invalid
  cmdreg := p.cmdReset
  dispState := .polling
  op := { mode := .noop, chan := 0#4, vd := 0#12, cycles := 0#8 }
  tri := { phase := .idle, sample := 0#12, left := 0, forever := false, chan := 0#4, delay := 0, returned := false }
  arbIndex := 0
  fb := { f0 := 0#8, f1 := 0#8, f2 := 0#8, f3 := 0#8 }
  mem := []
  inFlight := []
  draws := 0
  trace := []
  agenda := []

/-- Power-up with the default parameters (R5; log 2, log 3, log 13). -/
def State.reset : State := State.resetWith Config.defaultParams

end Sys2Proof.Machine
end

