-- ==== Sys2Proof/Machine/Operands.lean ====
section
/-!
DEFINITION. The operand forms of the command word: mode, delay and cycle-count assembly (R51 to R53, R59), and the latches
a command word loads (R14). All fields are unsigned, with no scaling (R51).
-/
namespace Sys2Proof.Machine

/-- `Mode(w)` (R53): bit 1 before bit 2 before bit 3, mode 0 where none is set. It does not depend on `busy`. -/
def modeOf (w : Word32) : Mode :=
  if modeFlag1 w then .fixed
  else if modeFlag2 w then .triangle
  else if modeFlag3 w then .arbitrary
  else .noop

/-- `Delay(vd)` in microseconds (R52): the raw value, with 0 standing for the default of 1000. -/
def delayOf (vd : BitVec 12) : Nat :=
  if vd = 0#12 then Config.delayDefault else vd.toNat

/-- `Forever(cyc)` (R59): a raw cycle count of 0 means repeat forever. For the generator's own port the count is any
natural number (R100). -/
def foreverOf (cycles : Nat) : Bool := cycles == 0

/-- What the latches hold after the block has accepted the word `w` (R14, R73). -/
def latchesOf (w : Word32) : OpLatches where
  mode := modeOf w
  chan := channelSelector w
  vd := valueOrDelay w
  cycles := cycleCount w

/-- The upper half of a waveform slot, sent first (R58). -/
def slotHigh (v : Word32) : Sample := ((v >>> 12) &&& 0xFFF#32).setWidth 12

/-- The lower half of a waveform slot, sent second (R58). -/
def slotLow (v : Word32) : Sample := (v &&& 0xFFF#32).setWidth 12

end Sys2Proof.Machine
end

