-- ==== Sys2Proof/Machine/Flags.lean ====
section
/-!
DEFINITION. The flag-like bits, all of them in the command register (R22): `busy` and the three mode flags. No operation
computes a flag; the block's one write replaces the whole word by 0 (R78, conflict C4).
-/
namespace Sys2Proof.Machine

/-- `busy`: 1 means a pending, undispatched command (R10). -/
def State.busy (s : State) : Bool := busyBit s.cmdreg

/-- `CmdClear()`: one 32-bit write of 0 to the command register, event `Clear` (R31, R78). It clears `busy` and every other
bit. -/
def State.cmdClear (s : State) : State :=
  { s with cmdreg := 0#32, trace := s.trace ++ [.clear] }

/-- The commands that by design never complete (R80, R134): a triangle with cycle count 0, and every arbitrary one. -/
def infiniteCommand (w : Word32) : Bool :=
  busyBit w && (modeOf w == .arbitrary || (modeOf w == .triangle && cycleCount w == 0#8))

end Sys2Proof.Machine
end

