-- ==== Sys2Proof/Machine/Memory.lean ====
section
/-!
DEFINITION. The waveform memory as a list of (address, byte) cells in one canonical form: addresses strictly rising. An
unlisted address has no known contents, so reading it answers none (log 5); a 32-bit word is kept little end first, a
choice nothing can observe because every access is a whole word (R32; log 6).
-/
namespace Sys2Proof.Machine

/-- The byte at an address, none where nothing has been written. -/
def Memory.read : List Host.Cell → Nat → Option Byte
  | [], _ => none
  | (a, b) :: rest, x => if x = a then some b else Memory.read rest x

/-- One byte written, in the place that keeps the addresses rising. -/
def Memory.write : List Host.Cell → Nat → Byte → List Host.Cell
  | [], x, v => [(x, v)]
  | (a, b) :: rest, x, v =>
      if x < a then (x, v) :: (a, b) :: rest
      else if x = a then (a, v) :: rest
      else (a, b) :: Memory.write rest x v

/-- Every address of the list is above `x`. -/
def Memory.above (x : Nat) (m : List Host.Cell) : Bool := m.all fun c => decide (x < c.1)

/-- The canonical form: the addresses strictly rise. -/
def Memory.wf : List Host.Cell → Bool
  | [] => true
  | (a, _) :: rest => Memory.above a rest && Memory.wf rest

/-- Byte `k` of a word, little end first (log 6). -/
def byteOf (w : Word32) (k : Nat) : Byte := w.extractLsb' (8 * k) 8

/-- The word at an address, none unless all four bytes are listed (R35: a 32-bit access). -/
def Memory.readWord (m : List Host.Cell) (a : Nat) : Option Word32 :=
  match Memory.read m a, Memory.read m (a + 1), Memory.read m (a + 2), Memory.read m (a + 3) with
  | some b0, some b1, some b2, some b3 =>
      some (BitVec.ofNat 32 (b0.toNat + b1.toNat * 0x100 + b2.toNat * 0x10000 + b3.toNat * 0x1000000))
  | _, _, _, _ => none

/-- A 32-bit word written at an address (R35). -/
def Memory.writeWord (m : List Host.Cell) (a : Nat) (w : Word32) : List Host.Cell :=
  Memory.write (Memory.write (Memory.write (Memory.write m a (byteOf w 0)) (a + 1) (byteOf w 1)) (a + 2) (byteOf w 2))
    (a + 3) (byteOf w 3)

end Sys2Proof.Machine
end

