-- ==== Sys2Proof/Machine/Ops.lean ====
section
/-!
DEFINITION. The named operations: the memory and output primitives of 00_scope.md section 7, accepting and completing a
dispatch, and the environment's reset. The block has no exception to take and none to return from (R130, R133, R135); the
reset is the one transfer of control caused from outside.
-/
namespace Sys2Proof.Machine

/-- One event more at the end of the trace (R7). -/
def State.emit (e : Event) (s : State) : State := { s with trace := s.trace ++ [e] }

/-- `CmdRead()`: the 32-bit load from `CMD_ADDR` (R29, R31). It has no side effect (R35). A poll that sees `busy = 0`
leaves no event (R7); one that is accepted records `Poll(w)` in `State.accept` (log 10). -/
def State.cmdRead (s : State) : Word32 := s.cmdreg

/-- `FB <- ENCODE(chan, sample, opcode, tag)`: all four bytes are written (R19, R92). -/
def State.encodeFrame (chan : Chan) (samp : Sample) (opcode tag : Byte) (s : State) : State :=
  { s with fb := waveEncode chan samp opcode tag }

/-- `Transfer(FB)`: the frame buffer is handed to the Bus Transport with length 4; the call returns and its result is
ignored (R37). -/
def State.transfer (s : State) : State := s.emit (.tx s.fb)

/-- One call of the encoder followed at once by one transfer, which is how every generator sends a sample (R93). -/
def State.sendFrame (chan : Chan) (samp : Sample) (opcode tag : Byte) (s : State) : State :=
  (s.encodeFrame chan samp opcode tag).transfer

/-- `if delay > 0 then Delay(delay)` (R106): with 0 the timer is not called and there is no event. -/
def State.pause (d : Nat) (s : State) : State := if 0 < d then s.emit (.wait d) else s

/-- Acceptance (R72, R73): the poll that saw `busy = 1` is recorded, the latches are loaded once, and the dispatcher is
running (R13, R14). -/
def State.accept (l : OpLatches) (s : State) : State :=
  { s with trace := s.trace ++ [.poll s.cmdRead], op := l, dispState := .running }

/-- Completion of a finite dispatch (R78, R81): the clear, and the dispatcher polls again. -/
def State.complete (s : State) : State := { s.cmdClear with dispState := .polling }

/-- The byte address of slot `i` (R39): `WB_BASE + 4*i`, which never wraps (R29; addresses are unbounded, log 26). -/
def State.slotAddr (s : State) (i : Nat) : Nat := s.cfg.wbBase + 4 * i

/-- What slot `i` is known to hold: the word last written to it, and nothing while the producer is in the middle of
writing it or where nothing has been written (R43). -/
def State.slotStored (s : State) (i : Nat) : Option Word32 :=
  if s.inFlight.contains i then none else Memory.readWord s.mem (s.slotAddr i)

/-- `SlotRead(i)`: the 32-bit load from `WB_BASE + 4*i`, event `SlotRd(i, v)` (R29, R39). Where the contents are not known
the value is free (R43, decision D26; log 5). -/
def State.slotRead (i : Nat) (s : State) : Word32 × State :=
  match s.slotStored i with
  | some v => (v, s.emit (.slotRd i v))
  | none => (Config.slotDraw s.draws, { s with draws := s.draws + 1 }.emit (.slotRd i (Config.slotDraw s.draws)))

/-- The environment's reset (R150, R151): every register takes its reset value, the operation in progress is abandoned
without a clear, and boot starts again. The command register keeps its word unless the reset rewrites it with `CMD_RESET`.
What is outside the block stays: the trace so far, the agenda, and the waveform memory unless power was lost (log 9). -/
def State.envReset (r : ResetMove) (s : State) : State :=
  { State.resetWith s.cfg with
    cmdreg := if r.rewritesCmd then s.cfg.cmdReset else s.cmdreg
    mem := if r.losesBuffer then [] else s.mem
    inFlight := s.inFlight
    draws := s.draws
    trace := s.trace
    agenda := s.agenda }

/-- The events by which `t`, the state after a step from `s`, is ahead of `s` (R7). -/
def State.eventsOfStep (s t : State) : List Event := t.trace.drop s.trace.length

/-- The state whose trace has only the first `k` of the events by which `t` is ahead of `s`, for a reset that falls inside
the step from `s` to `t` (decision D20; log 9): the command register is cleared exactly if the clear is among them. The
other registers do not matter, because the reset that follows overwrites them. -/
def State.cutAfter (k : Nat) (s t : State) : State :=
  let evs := (s.eventsOfStep t).take k
  { s with
    trace := s.trace ++ evs
    cmdreg := if evs.contains .clear then 0#32 else s.cmdreg
    draws := t.draws }

/-- The state `t` after a step from `s` in which a host write of `w` landed after the first `k` of the step's events,
the step having read the command register before that: the word stays unless the step's clear came later, which erased
it unread (R41, R132, R155). -/
def State.overwrittenAfter (k : Nat) (w : Word32) (s t : State) : State :=
  { t with cmdreg := if ((s.eventsOfStep t).drop k).contains .clear then t.cmdreg else w }

end Sys2Proof.Machine
end

