-- ==== Sys2Proof/Machine/Boot.lean ====
section
/-!
DEFINITION. Boot (R152): `open`, `configure`, the frames of `INIT_FRAMES` in order by one transfer each, then the loop. The
command register is not read before all of that is done.
-/
namespace Sys2Proof.Machine

/-- One step of boot. The calls of `open` and `configure` leave no event (R7); a start-up frame passes through the frame
buffer to one transfer. After boot there is nothing left to do. -/
def State.bootStep (s : State) : State :=
  match s.boot with
  | .opening => { s with devHandle := .opened, boot := .configuring }
  | .configuring => { s with devHandle := .configured, boot := .sending s.cfg.initFrames }
  | .sending [] => { s with boot := .done }
  | .sending (f :: rest) => { ({ s with fb := f }).transfer with boot := .sending rest }
  | .done => s

end Sys2Proof.Machine
end

