-- ==== Sys2Proof/Machine/Arbitrary.lean ====
section
/-!
DEFINITION. The Arbitrary Generator: ARB (R120), its step (R122) and what a waveform slot makes it send (R58, SLOT).
-/
namespace Sys2Proof.Machine

/-- ARB (R120, dispatched by R79): the word is accepted and the slot index set to 0 (R121). One `arbStep` a step follows,
for ever; the cycle count and the value field have no effect (R124). -/
def execArb (vd : BitVec 12) (chan : Chan) (cyc : BitVec 8) (_rsvd : BitVec 4) (s : State) : Result :=
  .next { s.accept { mode := .arbitrary, chan := chan, vd := vd, cycles := cyc } with arbIndex := 0 }

/-- SLOT (R58, as R122 plays it): the two halves of a slot's word, encoded with the run's channel and transmitted one after
the other, high first; bits 31:24 are ignored and nothing is done with a sign (R123). -/
def execSlot (_ignored : Byte) (high low : Sample) (s : State) : Result :=
  .next ((s.sendFrame s.op.chan high s.cfg.opcArb s.cfg.tagArb).sendFrame s.op.chan low s.cfg.opcArb s.cfg.tagArb)

/-- The index moves on, `(arb_index + 1) mod len` (R122). -/
def State.nextSlot (s : State) : State := { s with arbIndex := (s.arbIndex + 1) % s.cfg.arbLen }

end Sys2Proof.Machine
end

