-- ==== Sys2Proof/Machine/Dispatcher.lean ====
section
/-!
DEFINITION. The Command Dispatcher's own operations: IDLE (R71) and NOP (R75).
-/
namespace Sys2Proof.Machine

/-- IDLE (R71): the poll saw `busy = 0`; the block stays polling, changes no state, sends nothing and does not write the
command register. -/
def execIdle (_rest : BitVec 31) (s : State) : Result := .next s

/-- NOP (R75): the word is accepted and its fields latched, and the register is cleared; trace `[Poll(w), Clear]`. -/
def execNop (vd : BitVec 12) (chan : Chan) (cyc : BitVec 8) (_rsvd : BitVec 4) (s : State) : Result :=
  .next (s.accept { mode := .noop, chan := chan, vd := vd, cycles := cyc }).complete

end Sys2Proof.Machine
end

