-- ==== Sys2Proof/Machine/Fixed.lean ====
section
/-!
DEFINITION. The Fixed Generator: FIXED (R95), with its dispatch (R76) and completion (R78).
-/
namespace Sys2Proof.Machine

/-- FIXED (R95): encode once, transmit once, return; then the dispatcher clears the register. The sample is the raw value
field (R51), opcode and tag are `OPC_UPDATE` and `TAG_UPDATE`; the cycle count, bits 7:4 and the lower-priority flags have
no effect. Trace `[Poll(w), Tx(ENCODE(chan, val, 0x03, 0x55)), Clear]` (R96), in one step (log 8). -/
def execFixed (val : Sample) (chan : Chan) (cyc : BitVec 8) (_rsvd : BitVec 4) (_m3 _m2 : BitVec 1) (s : State) : Result :=
  .next (((s.accept { mode := .fixed, chan := chan, vd := val, cycles := cyc }).sendFrame chan val
    Config.opcUpdate Config.tagUpdate).complete)

end Sys2Proof.Machine
end

