-- ==== Sys2Proof/Machine/Frames.lean ====
section
/-!
DEFINITION. The two rows of the frame format: ENCODE (R85) and FRAME.DACUPDATE (R57).
-/
namespace Sys2Proof.Machine

/-- ENCODE (R85): the Wave Encoder on four inputs, its result in the frame buffer (R19). Pure otherwise: no event, no call,
no other register (R92). -/
def execEncode (opcode : Byte) (chan : Chan) (samp : Sample) (tag : Byte) (s : State) : Result :=
  .next (s.encodeFrame chan samp opcode tag)

/-- FRAME.DACUPDATE (R57, R93): the frame with opcode 0x03 and tag 0x55, built by one ENCODE and handed at once to the
transport. -/
def execFrameDacUpdate (chan : Chan) (samp : Sample) (s : State) : Result :=
  .next (s.sendFrame chan samp Config.opcUpdate Config.tagUpdate)

end Sys2Proof.Machine
end

