-- ==== Sys2Proof/Machine/Triangle.lean ====
section
/-!
DEFINITION. The Triangle Generator: TRI (R100), the start of the sequencer (R101), its step (R103) and its start port (R108).
-/
namespace Sys2Proof.Machine

/-- The registers after a start with these operands (R101). -/
def TriRegs.started (chan : Chan) (cycles delay : Nat) : TriRegs where
  phase := .up
  sample := 0#12
  left := cycles
  forever := foreverOf cycles
  chan := chan
  delay := delay
  returned := false

/-- The second half of the step, the advance (R103): up to 4095, the turn that leaves the sample at 4095, down to 0, and
at the end of a cycle another cycle or the return (R104, R105), which `tri_done` reports (R108). With no run in progress
nothing moves. -/
def TriRegs.advance (r : TriRegs) : TriRegs :=
  match r.phase with
  | .idle => r
  | .up =>
      if r.sample < 4095#12 then { r with sample := r.sample + 1#12 }
      else { r with phase := .down }
  | .down =>
      if 0#12 < r.sample then { r with sample := r.sample - 1#12 }
      else if r.forever then { r with phase := .up }
      else if 1 < r.left then { r with left := r.left - 1, phase := .up }
      else { r with left := 0, phase := .idle, returned := true }

/-- The start of a run (R101): no frame is sent by it. -/
def State.startTri (chan : Chan) (cycles delay : Nat) (s : State) : State :=
  { s with tri := TriRegs.started chan cycles delay }

/-- `TriStep` (R103): send the current sample, pause if there is a delay, then advance. -/
def State.triStep (s : State) : State :=
  let sent := (s.sendFrame s.tri.chan s.tri.sample s.cfg.opcTri s.cfg.tagTri).pause s.tri.delay
  { sent with tri := s.tri.advance }

/-- TRI (R100, dispatched by R77): the word is accepted and the sequencer started with the channel, the raw cycle count
and `Delay(vd)`. The frames follow, one `State.triStep` a step, and after a finite run the clear. -/
def execTri (vd : BitVec 12) (chan : Chan) (cyc : BitVec 8) (_rsvd : BitVec 4) (_m3 : BitVec 1) (s : State) : Result :=
  .next ((s.accept { mode := .triangle, chan := chan, vd := vd, cycles := cyc }).startTri chan cyc.toNat (delayOf vd))

/-- The start port of the core alone (R108): a request is honoured only while no run is in progress. -/
def State.triStartPort (chan : Chan) (cycles delay : Nat) (s : State) : State :=
  if s.tri.phase = .idle then s.startTri chan cycles delay else s

/-- The `tri_done` port (R108): a run has returned, which it has not before the first run; it reads 0 again from the next
start on (log 25). -/
def State.triDone (s : State) : Bool := s.tri.returned

end Sys2Proof.Machine
end

