-- ==== Sys2Proof/Machine/Dispatch.lean ====
section
/-!
DEFINITION. One arm per instruction, each one call of its meaning.
-/
namespace Sys2Proof.Machine

def exec (i : Instr) (s : State) : Host.Outcome State Fault Refusal :=
  match i with
  | .idle rest => Sys2Proof.Machine.execIdle rest s
  | .nop vd chan cyc rsvd => Sys2Proof.Machine.execNop vd chan cyc rsvd s
  | .fixed val chan cyc rsvd m3 m2 => Sys2Proof.Machine.execFixed val chan cyc rsvd m3 m2 s
  | .tri vd chan cyc rsvd m3 => Sys2Proof.Machine.execTri vd chan cyc rsvd m3 s
  | .arb vd chan cyc rsvd => Sys2Proof.Machine.execArb vd chan cyc rsvd s
  | .encode opcode chan samp tag => Sys2Proof.Machine.execEncode opcode chan samp tag s
  | .frameDacUpdate chan samp => Sys2Proof.Machine.execFrameDacUpdate chan samp s
  | .slot ignored high low => Sys2Proof.Machine.execSlot ignored high low s

end Sys2Proof.Machine
end

