-- ==== Sys2Proof/Machine/Block.lean ====
section
/-!
DEFINITION. One step of the block: boot, a poll and what it starts, or one step of the generator that is running (R70, R74,
R103, R122). Always enabled (R145).
-/
namespace Sys2Proof.Machine

/-- `ArbStep` (R122): one slot is read, the instruction that its word is in the slot format is executed, and the index moves
on. With `ARB_LEN = 0` the inner loop does nothing and the outer loop repeats for ever (R126). -/
def State.arbStep (s : State) : Result :=
  if s.cfg.arbLen = 0 then .next s
  else
    let (v, read) := s.slotRead s.arbIndex
    match exec (decodeSlot v) read with
    | .next sent => .next sent.nextSlot
    | .fault r => .fault r
    | .refused r => .refused r

/-- A step while a command is being carried out: the next step of the selected generator, or the completing clear when the
generator has returned (R74, R78). Modes 0 and 1 complete inside their own instruction, so a running dispatcher holds mode
2 or 3 in every state a run reaches; elsewhere the clear is all that is left to do (log 8). -/
def State.runStep (s : State) : Result :=
  match s.op.mode with
  | .noop | .fixed => .next s.complete
  | .triangle => if s.tri.phase = .idle then .next s.complete else .next s.triStep
  | .arbitrary => s.arbStep

/-- A step of the core alone (P7): the sequencer's step while a run is in progress, nothing otherwise. -/
def State.coreStep (s : State) : State := if s.tri.phase = .idle then s else s.triStep

/-- One step of the block. In POLLING the word in the command register is read once, decoded and executed (R70, R72). -/
def blockStep (s : State) : Result :=
  match s.boot with
  | .opening | .configuring | .sending _ => .next s.bootStep
  | .done =>
    if s.cfg.frontEnd then
      match s.dispState with
      | .polling => exec (decodeCommand s.cmdRead) s
      | .running => s.runStep
    else .next s.coreStep

end Sys2Proof.Machine
end

