-- ==== Sys2Proof/Machine/Moves.lean ====
section
/-!
DEFINITION. The moves of the agents outside the block (R6, R40 to R44): what each does to the state.
-/
namespace Sys2Proof.Machine

/-- A slot of the buffer that exists: the front end is built and the index is below `ARB_LEN` (R30). -/
def State.hasSlot (s : State) (i : Nat) : Bool := s.cfg.frontEnd && decide (i < s.cfg.arbLen)

/-- The producer begins to write slot `i`: from now until its write has landed the slot reads as any value (R43). -/
def State.slotBegin (i : Nat) (s : State) : State :=
  if s.inFlight.contains i then s else { s with inFlight := i :: s.inFlight }

/-- The producer's 32-bit store of `v` in slot `i` has landed (R39, R35). -/
def State.slotWrite (i : Nat) (v : Word32) (s : State) : State :=
  { s with mem := Memory.writeWord s.mem (s.slotAddr i) v, inFlight := s.inFlight.erase i }

/-- A host write of `w` inside the block's next step, after `k` of its events (R41, decision D14). Before the first
event it is in the register when the step begins; after it, the step has already read the register, if it reads it at
all, and so does not see the word (R14, R47). With this both orders of a clear and a coinciding host write exist (R132).
-/
def State.hostWriteIn (k : Nat) (w : Word32) (s : State) : Result :=
  if k = 0 then blockStep { s with cmdreg := w }
  else
    match blockStep s with
    | .next t => .next (s.overwrittenAfter k w t)
    | .fault r => .fault r
    | .refused r => .refused r

/-- The reset that falls after the first `r.afterEvents` events of the block's next step (R150, decision D20). -/
def State.resetDuring (r : ResetMove) (s : State) : State :=
  match blockStep s with
  | .next t => (s.cutAfter r.afterEvents t).envReset r
  | .fault _ => s.envReset r
  | .refused _ => s.envReset r

/-- One move. A host write is a 32-bit store that the block sees at its next poll and nowhere else (R47), if no clear
erases it before (R155); a producer's write changes one slot (R39, R43); a move that an interface does not have is
refused. -/
def applyMove (m : Move) (s : State) : Result :=
  match m with
  | .block => blockStep s
  | .hostWrite w => if s.cfg.frontEnd then .next { s with cmdreg := w } else .refused .noSuchMove
  | .hostWriteIn k w => if s.cfg.frontEnd then s.hostWriteIn k w else .refused .noSuchMove
  | .slotBegin i => if s.hasSlot i then .next (s.slotBegin i) else .refused .noSuchMove
  | .slotWrite i v => if s.hasSlot i then .next (s.slotWrite i v) else .refused .noSuchMove
  | .reset r => .next (s.resetDuring r)
  | .triStart chan cycles delay =>
      if s.cfg.frontEnd then .refused .noSuchMove else .next (s.triStartPort chan cycles delay)
  | .encPort opcode chan samp tag =>
      if s.cfg.frontEnd then .refused .noSuchMove else exec (.encode opcode chan samp tag) s

end Sys2Proof.Machine
end

