-- ==== Sys2Proof/Machine/Step.lean ====
section
/-!
DEFINITION. The step: the next move of the agenda, or the block's own step where the agenda is empty; and the placing of a
command word where the next step reads it.
-/
namespace Sys2Proof.Machine

/-- One step of the system. A configuration that R34 and R48 give no meaning is refused. -/
def step (s : State) : Host.Outcome State Fault Refusal :=
  if s.cfg.wf then
    match s.agenda with
    | [] => blockStep s
    | m :: rest => applyMove m { s with agenda := rest }
  else .refused .illegalConfig

/-- `s` about to poll the word `w`: boot is over with the handle configured, the front end is built, the dispatcher polls,
no other move comes first, and the command register holds the word (log 15). -/
def State.withFetchWord (s : State) (_nbits w : Nat) : State :=
  { s with
    cfg := { s.cfg with frontEnd := true }
    boot := .done
    devHandle := .configured
    dispState := .polling
    agenda := []
    cmdreg := BitVec.ofNat 32 w }

end Sys2Proof.Machine
end

