-- ==== Sys2Proof/Machine/Traces.lean ====
section
/-!
DEFINITION. The closed forms of the spec, in which claims about runs are stated: the sample of the k-th frame (R110), the
traces of a triangle run (R111), the generator's loop as the document writes it (R102), the frames of a slot (R122), and
the trace of a dispatch (R82). No step uses them.
-/
namespace Sys2Proof.Machine

/-- `TriSample(k)` (R110). -/
def triSample (k : Nat) : Nat := if k % 8192 < 4096 then k % 8192 else 8191 - k % 8192

/-- The events of one triangle frame that carries sample `n`: the transfer, and the pause if there is one (R102 `emit`). -/
def triEmit (p : Params) (chan : Chan) (delay n : Nat) : List Event :=
  .tx (waveEncode chan (BitVec.ofNat 12 n) p.opcTri p.tagTri) :: if 0 < delay then [.wait delay] else []

/-- `E(chan, delay, k)` (R111). -/
def triEvents (p : Params) (chan : Chan) (delay k : Nat) : List Event := triEmit p chan delay (triSample k)

/-- The first `n` frames' worth of `TriStream(chan, delay)` (R111). -/
def triStreamPrefix (p : Params) (chan : Chan) (delay : Nat) : Nat → List Event
  | 0 => []
  | n + 1 => triStreamPrefix p chan delay n ++ triEvents p chan delay n

/-- `TriTrace(chan, N, delay)` (R111): `8192 * N` frames. -/
def triTrace (p : Params) (chan : Chan) (cycles delay : Nat) : List Event :=
  triStreamPrefix p chan delay (8192 * cycles)

/-- The samples that `cycles` passes of the loop of R102 emit: 0 up to 4095, then 4095 down to 0, each time. -/
def triLoop : Nat → List Nat
  | 0 => []
  | n + 1 => triLoop n ++ (List.range 4096 ++ (List.range 4096).reverse)

/-- The events of the loop of R102 with `cycles` passes. -/
def triLoopTrace (p : Params) (chan : Chan) (cycles delay : Nat) : List Event :=
  (triLoop cycles).flatMap (triEmit p chan delay)

/-- `FixedTrace(chan, value)` (R96). -/
def fixedTrace (chan : Chan) (value : Sample) : List Event :=
  [.tx (waveEncode chan value Config.opcUpdate Config.tagUpdate)]

/-- The two frames of a slot's word, high half first (R122). -/
def slotFrames (p : Params) (chan : Chan) (v : Word32) : List Event :=
  [.tx (waveEncode chan (slotHigh v) p.opcArb p.tagArb), .tx (waveEncode chan (slotLow v) p.opcArb p.tagArb)]

/-- What one `ArbStep` that reads `v` from slot `i` adds to the trace (R122). -/
def arbEvents (p : Params) (chan : Chan) (i : Nat) (v : Word32) : List Event := .slotRd i v :: slotFrames p chan v

/-- The first `n` steps of `ArbStream(chan, ARB_LEN)` from slot `first`, when slot `i` holds `contents i` all along (R125). A
buffer of length 0 gives the empty stream (R126). -/
def arbStreamPrefix (p : Params) (chan : Chan) (contents : Nat → Word32) (first : Nat) : Nat → List Event
  | 0 => []
  | n + 1 =>
      if p.arbLen = 0 then []
      else
        arbStreamPrefix p chan contents first n ++
          arbEvents p chan ((first + n) % p.arbLen) (contents ((first + n) % p.arbLen))

/-- `DispatchTrace(w)` for an accepted word whose dispatch is finite (R82); an infinite one has no complete trace. -/
def dispatchTrace (p : Params) (w : Word32) : Option (List Event) :=
  match modeOf w with
  | .noop => some [.poll w, .clear]
  | .fixed => some ([.poll w] ++ fixedTrace (channelSelector w) (valueOrDelay w) ++ [.clear])
  | .triangle =>
      if cycleCount w = 0#8 then none
      else some ([.poll w] ++ triTrace p (channelSelector w) (cycleCount w).toNat (delayOf (valueOrDelay w)) ++ [.clear])
  | .arbitrary => none

end Sys2Proof.Machine
end

