-- ==== Sys2Proof/Safety.lean ====
section
/-!
DEFINITION. The terms claims use: a machine that is ready for a command, a host that keeps the discipline, a producer that
is silent, the dead end, and the invariants.
-/
namespace Sys2Proof.Safety

open Sys2Proof.Machine

/-- `n` steps of the machine, stopping at the first that answers no next state. -/
def runFor : Nat → State → Result
  | 0, s => .next s
  | n + 1, s =>
    match step s with
    | .next t => runFor n t
    | .fault r => .fault r
    | .refused r => .refused r

/-- A poll that was accepted. -/
def isPoll : Event → Bool
  | .poll _ => true
  | _ => false

/-- A frame handed to the transport. -/
def isTx : Event → Bool
  | .tx _ => true
  | _ => false

/-- A pause. -/
def isWait : Event → Bool
  | .wait _ => true
  | _ => false

/-- A completion write. -/
def isClear : Event → Bool
  | .clear => true
  | _ => false

/-- The block alone: a configuration with a meaning, the front end built, boot over and no other agent's move to come. -/
abbrev Alone (s : State) : Prop :=
  s.cfg.wf = true ∧ s.cfg.frontEnd = true ∧ s.boot = .done ∧ s.agenda = []

/-- The block alone and polling: its next step reads the command register (R13, R71). -/
abbrev Ready (s : State) : Prop := Alone s ∧ s.dispState = .polling

/-- The block alone with a triangle command being carried out (R74). -/
abbrev InTriangle (s : State) : Prop := Alone s ∧ s.dispState = .running ∧ s.op.mode = .triangle

/-- The block alone with an arbitrary command being carried out (R74). -/
abbrev InArbitrary (s : State) : Prop := Alone s ∧ s.dispState = .running ∧ s.op.mode = .arbitrary

/-- The core alone, past boot, with no move to come (R3, P7). -/
abbrev BareCore (s : State) : Prop :=
  s.cfg.wf = true ∧ s.cfg.frontEnd = false ∧ s.boot = .done ∧ s.agenda = []

/-- The sequencer's steps are the machine's steps: a dispatched triangle run, or the core alone (R3, R74). -/
abbrev SequencerRuns (s : State) : Prop := InTriangle s ∨ BareCore s

/-- Whether `busy` is still 1 when the first `k` events of the block's next step have happened. -/
def busyAfter (k : Nat) (s : State) : Bool :=
  match blockStep s with
  | .next t => s.busy && !((s.eventsOfStep t).take k).contains .clear
  | .fault _ => s.busy
  | .refused _ => s.busy

/-- The discipline of R41 at the next move: the host writes the command register only while `busy` is 0. -/
def hostStepOk (s : State) : Bool :=
  match s.agenda with
  | .hostWrite _ :: _ => !s.busy
  | .hostWriteIn k _ :: rest => !busyAfter k { s with agenda := rest }
  | _ => true

/-- The next move is no reset by the environment. -/
def noResetNext (s : State) : Bool :=
  match s.agenda with
  | .reset _ :: _ => false
  | _ => true

/-- The next move is not one of the producer's and not a reset: nothing writes the waveform memory in it. -/
def bufferQuietNext (s : State) : Bool :=
  match s.agenda with
  | .slotWrite _ _ :: _ => false
  | .reset _ :: _ => false
  | _ => true

/-- The dead end of R80 and R156: a dispatch is being carried out that never returns. -/
abbrev DeadEnd (s : State) : Prop :=
  s.cfg.frontEnd = true ∧ s.boot = .done ∧ s.dispState = .running ∧
    (s.op.mode = .arbitrary ∨ (s.op.mode = .triangle ∧ s.tri.forever = true ∧ s.tri.phase ≠ .idle))

/-- The waveform memory: canonical, and every cell inside the `4*ARB_LEN` bytes of the buffer (R30, R39). -/
abbrev MemoryOk (s : State) : Prop :=
  Memory.wf s.mem = true ∧
    ∀ c ∈ s.mem, s.cfg.wbBase ≤ c.1 ∧ c.1 < s.cfg.wbBase + 4 * s.cfg.arbLen

/-- The slots in flight exist and are listed once each. -/
abbrev InFlightOk (s : State) : Prop := s.inFlight.Nodup ∧ ∀ i ∈ s.inFlight, i < s.cfg.arbLen

/-- The handle matches the boot position, and nothing is dispatched before boot is over (R152). -/
abbrev BootOk (s : State) : Prop :=
  (s.boot = .opening → s.devHandle = .invalid) ∧ (s.boot = .configuring → s.devHandle = .opened) ∧
    (s.boot ≠ .opening → s.boot ≠ .configuring → s.devHandle = .configured) ∧
    (s.boot ≠ .done → s.dispState = .polling)

/-- The sequencer of a dispatched triangle run: the run's operands are the latched ones (R14, R77, R115), a run in progress
that is finite has 1 to `op_cycles` cycles left (R25 (b)), and a run that has returned left sample and count at 0
(R25 (d)) and `tri_done` at 1 (R108). -/
abbrev TriRunOk (s : State) : Prop :=
  s.tri.chan = s.op.chan ∧ s.tri.delay = delayOf s.op.vd ∧ s.tri.forever = foreverOf s.op.cycles.toNat ∧
    (s.tri.phase ≠ .idle → s.tri.forever = false → 1 ≤ s.tri.left ∧ s.tri.left ≤ s.op.cycles.toNat) ∧
    (s.tri.phase = .idle → s.tri.forever = false ∧ s.tri.left = 0 ∧ s.tri.sample = 0#12 ∧ s.triDone = true)

/-- The dispatcher: no run while it polls (R15); while it runs, a triangle run or an arbitrary run with its index inside the
buffer (R20, R74). The core alone never leaves POLLING, and a finite run of it has a cycle left (R25 (b)). -/
abbrev DispatchOk (s : State) : Prop :=
  (s.cfg.frontEnd = true → s.dispState = .polling → s.tri.phase = .idle) ∧
    (s.cfg.frontEnd = true → s.dispState = .running →
      (s.op.mode = .triangle ∧ TriRunOk s) ∨
        (s.op.mode = .arbitrary ∧ s.tri.phase = .idle ∧ (s.cfg.arbLen = 0 ∨ s.arbIndex < s.cfg.arbLen))) ∧
    (s.cfg.frontEnd = false →
      s.dispState = .polling ∧ (s.tri.phase ≠ .idle → s.tri.forever = false → 1 ≤ s.tri.left))

/-- `tri_done` is 1 only while no run is in progress (R108). -/
abbrev DonePortOk (s : State) : Prop := s.triDone = true → s.tri.phase = .idle

/-- The invariant of the whole system. -/
abbrev SystemInv (s : State) : Prop := MemoryOk s ∧ InFlightOk s ∧ BootOk s ∧ DispatchOk s ∧ DonePortOk s

/-- What a disciplined host buys (R41, R80): while a command is carried out the register still holds the accepted word, with
`busy = 1`, and the latches are that word's. -/
abbrev HeldInv (s : State) : Prop :=
  s.cfg.frontEnd = true → s.dispState = .running → s.busy = true ∧ s.op = latchesOf s.cmdreg

/-- Before step `k` of a run of `n` cycles (R25 (c)): the position of the sequencer as a function of the frames sent. -/
abbrev AtFrame (r : TriRegs) (n k : Nat) : Prop :=
  (k % 8192 < 4096 → r.phase = .up ∧ r.sample.toNat = k % 8192) ∧
    (4096 ≤ k % 8192 → r.phase = .down ∧ r.sample.toNat = 8191 - k % 8192) ∧
    (r.forever = false → r.left = n - k / 8192)

end Sys2Proof.Safety
end

