-- ==== Sys2Proof/Certificates/Slice0/Obligations.lean ====
section
/-!
DEFINITION. The statements for the provers. Each docstring names the rule or section of spec/ it formalises.
-/

open Sys2Proof Sys2Proof.Machine Sys2Proof.Safety

/-! ## Encodings -/

/-- Words written out from the encoding tables (vectors CW2, CW5, CW8, CW12, CW16, CW19, CW21) decode to the operations
they stand for. -/
def Obligations.SpecWordsDecode : Prop :=
  decodeCommand 0xFFFFFFFE#32 = .idle 0x7FFFFFFF#31 ∧
  decodeCommand 0xFFFFFFF1#32 = .nop 4095#12 15#4 255#8 15#4 ∧
  decodeCommand 0x7FF80003#32 = .fixed 2047#12 8#4 0#8 0#4 0#1 0#1 ∧
  decodeCommand 0xABC712FF#32 = .fixed 0xABC#12 7#4 18#8 15#4 1#1 1#1 ∧
  decodeCommand 0x00510205#32 = .tri 5#12 1#4 2#8 0#4 0#1 ∧
  decodeCommand 0x0000000D#32 = .tri 0#12 0#4 0#8 0#4 1#1 ∧
  decodeCommand 0x00031209#32 = .arb 0#12 3#4 18#8 0#4 ∧
  decodeFrame 0x03A12355#32 = .encode 0x03#8 10#4 0x123#12 0x55#8 ∧
  decodeDacUpdate 0x03A12355#32 = .ok (.frameDacUpdate 10#4 0x123#12) ∧
  decodeSlot 0xFF123456#32 = .slot 0xFF#8 0x123#12 0x456#12

/-- Decode and encode agree: reading the word of any well-formed instruction in its own format gives the instruction back,
with every field at every value. -/
def Obligations.DecodeInvertsEncode : Prop :=
  ∀ i : Instr, i.wf = true → decode i.format (encode i) = .ok i

/-- The other direction: each decoder keeps every bit of the word, so encoding what it reads gives the word back. -/
def Obligations.EncodeInvertsDecode : Prop :=
  (∀ w : Word32, encode (decodeCommand w) = w) ∧
  (∀ w : Word32, encode (decodeFrame w) = w) ∧
  (∀ w : Word32, encode (decodeSlot w) = w) ∧
  (∀ (w : Word32) (i : Instr), decodeDacUpdate w = .ok i → encode i = w)

/-- 30_encoding.md section 3 (the spec derives the map): of the five rows of the operation map exactly one selects a
given word, and it is the row of the operation the decoder reads. -/
def Obligations.OperationMapSelectsOneRow : Prop :=
  ∀ w : Word32,
    (decodeCommand w).row ∈ operationMap ∧
    ∀ r ∈ operationMap, (r.selects w = true ↔ r = (decodeCommand w).row)

/-- 30_encoding.md section 2: the mode of an accepted word is 1 (fixed) if bit 1 is set, else 2 (triangle) if bit 2 is
set, else 3 if bit 3 is set, else 0; that mode 3 is the arbitrary mode is the spec's decision D17. -/
def Obligations.AcceptedModeFollowsPriority : Prop :=
  ∀ s : State, Ready s → s.busy = true →
    ∃ t, step s = .next t ∧
      t.op.mode =
        if (s.cmdreg >>> 1) &&& 1#32 = 1#32 then .fixed
        else if (s.cmdreg >>> 2) &&& 1#32 = 1#32 then .triangle
        else if (s.cmdreg >>> 3) &&& 1#32 = 1#32 then .arbitrary
        else .noop

/-- 10_state.md section 4 (one read of the word is the spec's decision D5): an accepted word is copied into the four
latches in the step that accepts it; while it is carried out, what the command register holds changes nothing that
happens, and the completing write of 0 overwrites it. -/
def Obligations.OperandsAreLatchedOnce : Prop :=
  (∀ s : State, Ready s → s.busy = true →
    ∃ t, step s = .next t ∧ t.op.mode = modeOf s.cmdreg ∧
      t.op.chan.toNat = (s.cmdreg.toNat >>> 16) &&& 0xF ∧
      t.op.vd.toNat = (s.cmdreg.toNat >>> 20) &&& 0xFFF ∧
      t.op.cycles.toNat = (s.cmdreg.toNat >>> 8) &&& 0xFF) ∧
  (∀ (s : State) (w : Word32), Alone s → s.dispState = .running →
    ∃ t, step s = .next t ∧ t.op = s.op ∧
      t.cmdreg = (if t.dispState = .running then s.cmdreg else 0#32) ∧
      step { s with cmdreg := w } = .next { t with cmdreg := if t.dispState = .running then w else 0#32 })

/-- R52: a dispatched triangle run pauses for the raw value of bits 31:20, with 0 meaning 1000; the result is in 1 to
4095, and raw 0 and raw 1000 give the same delay. -/
def Obligations.RawDelayZeroMeansDefault : Prop :=
  (∀ s : State, Ready s → s.cmdreg &&& 0x7#32 = 0x5#32 →
    ∃ t, step s = .next t ∧
      t.tri.delay =
        (if (s.cmdreg.toNat >>> 20) &&& 0xFFF = 0 then 1000 else (s.cmdreg.toNat >>> 20) &&& 0xFFF) ∧
      1 ≤ t.tri.delay ∧ t.tri.delay ≤ 4095) ∧
  delayOf 0#12 = delayOf 1000#12

/-- 30_encoding.md section 7: the words of the assembler notation decode to the operation and operands that were written,
with every other field 0, and they are the canonical commands. -/
def Obligations.AssembledCommandsDecode : Prop :=
  decodeCommand (assemble .nop) = .nop 0#12 0#4 0#8 0#4 ∧
  (∀ ch val, decodeCommand (assemble (.fixed ch val)) = .fixed val ch 0#8 0#4 0#1 0#1) ∧
  (∀ ch cyc vd, decodeCommand (assemble (.tri ch cyc vd)) = .tri vd ch cyc 0#4 0#1) ∧
  (∀ ch cyc, decodeCommand (assemble (.arb ch cyc)) = .arb 0#12 ch cyc 0#4) ∧
  (∀ i : Instr, i.canonical = true → ∃ a : Asm, assemble a = encode i ∧ ∀ w, a ≠ .word w)

/-- 30_encoding.md section 4 (the spec's decision D15): two words that differ in bits 7:4 only have the same effect: the
same latches, sequencer, frame buffer and events, but for the polled word itself. -/
def Obligations.UnnamedBitsAreIgnored : Prop :=
  ∀ (s : State) (w1 w2 : Word32), Ready s → w1 &&& 0xFFFFFF0F#32 = w2 &&& 0xFFFFFF0F#32 →
    ∃ t1 t2 e1 e2, step { s with cmdreg := w1 } = .next t1 ∧ step { s with cmdreg := w2 } = .next t2 ∧
      t1.trace = s.trace ++ e1 ∧ t2.trace = s.trace ++ e2 ∧
      e1.filter (fun e => !isPoll e) = e2.filter (fun e => !isPoll e) ∧ e1.length = e2.length ∧
      t1.cmdreg &&& 0xFFFFFF0F#32 = t2.cmdreg &&& 0xFFFFFF0F#32 ∧
      t1.op = t2.op ∧ t1.tri = t2.tri ∧ t1.arbIndex = t2.arbIndex ∧ t1.fb = t2.fb ∧ t1.dispState = t2.dispState

/-! ## The Wave Encoder and the slot format -/

/-- R85 and R92: ENCODE runs in every state; it leaves the frame whose byte 0 is the opcode, byte 1 the channel times 16
plus the sample's bits 11:8, byte 2 the sample's bits 7:0 and byte 3 the tag, and changes nothing else. -/
def Obligations.EncoderPacksFrame : Prop :=
  ∀ (opcode : Byte) (chan : Chan) (samp : Sample) (tag : Byte) (s : State),
    ∃ f : Frame, exec (.encode opcode chan samp tag) s = .next { s with fb := f } ∧
      f.f0 = opcode ∧ f.f1.toNat = chan.toNat * 16 + samp.toNat / 256 ∧ f.f2.toNat = samp.toNat % 256 ∧ f.f3 = tag

/-- 41_wave_encoder.md section 2: every input of the encoder can be read back from its frame; and, as the spec derives
from that, the encoder is one to one and onto, and `FrameFields` is its inverse on both sides. -/
def Obligations.EncoderIsInvertible : Prop :=
  (∀ (chan : Chan) (samp : Sample) (opcode tag : Byte),
    let f := waveEncode chan samp opcode tag
    (f.f1 >>> 4).toNat = chan.toNat ∧ ((f.f1 &&& 0xF#8).toNat <<< 8) ||| f.f2.toNat = samp.toNat ∧
      f.f3 = tag ∧ f.f0 = opcode ∧
      frameFields f = { chan := chan, samp := samp, opcode := opcode, tag := tag }) ∧
  (∀ f : Frame, waveEncode (frameFields f).chan (frameFields f).samp (frameFields f).opcode (frameFields f).tag = f) ∧
  Function.Bijective fun x : FrameContents => waveEncode x.chan x.samp x.opcode x.tag

/-- R56: the layout of the four bytes, and the same frame as one number, byte 0 most significant, is the pattern
`oooooooo cccc ssssssssssss tttttttt`. -/
def Obligations.FrameLayoutAndPattern : Prop :=
  ∀ (chan : Chan) (samp : Sample) (opcode tag : Byte),
    let f := waveEncode chan samp opcode tag
    f.f0 = opcode ∧ f.f1.extractLsb' 4 4 = chan ∧ f.f1.extractLsb' 0 4 = samp.extractLsb' 8 4 ∧
      f.f2 = samp.extractLsb' 0 8 ∧ f.f3 = tag ∧
      f.toWord.extractLsb' 24 8 = opcode ∧ f.toWord.extractLsb' 20 4 = chan ∧
      f.toWord.extractLsb' 8 12 = samp ∧ f.toWord.extractLsb' 0 8 = tag ∧
      f.toWord = encode (.encode opcode chan samp tag)

/-- R58: a slot's word holds `high = (slot >> 12) & 0xFFF` and `low = slot & 0xFFF`, unsigned, and its bits 31:24 take no
part in what is sent. -/
def Obligations.SlotHoldsTwoSamples : Prop :=
  ∀ v : Word32,
    (∃ ignored high low, decodeSlot v = .slot ignored high low ∧
      high.toNat = (v.toNat >>> 12) &&& 0xFFF ∧ low.toNat = v.toNat &&& 0xFFF) ∧
    (∀ s : State, exec (decodeSlot v) s = exec (decodeSlot (v &&& 0x00FFFFFF#32)) s) ∧
    decodeSlot 0x00123456#32 = .slot 0#8 0x123#12 0x456#12

/-! ## What each instruction does, and its frame -/

/-- 40_command_dispatch.md section 1: IDLE runs in every state and changes none of it. -/
def Obligations.IdleChangesNothing : Prop :=
  ∀ (rest : BitVec 31) (s : State), exec (.idle rest) s = .next s

/-- 40_command_dispatch.md sections 2 and 3: NOP runs in every state: the poll, the latches, the clear, and nothing
else. -/
def Obligations.NopClearsRegister : Prop :=
  ∀ (vd : BitVec 12) (chan : Chan) (cyc : BitVec 8) (rsvd : BitVec 4) (s : State),
    exec (.nop vd chan cyc rsvd) s = .next { s with
      trace := s.trace ++ [.poll s.cmdreg, .clear]
      op := { mode := .noop, chan := chan, vd := vd, cycles := cyc }
      cmdreg := 0#32
      dispState := .polling }

/-- 42_fixed_generator.md and 40_command_dispatch.md section 3: FIXED runs in every state: the poll, the latches, one
frame of the channel and the value with opcode 0x03 and tag 0x55, the clear, and nothing else. -/
def Obligations.FixedSendsOneFrame : Prop :=
  ∀ (val : Sample) (chan : Chan) (cyc : BitVec 8) (rsvd : BitVec 4) (m3 m2 : BitVec 1) (s : State),
    exec (.fixed val chan cyc rsvd m3 m2) s = .next { s with
      trace := s.trace ++ [.poll s.cmdreg, .tx (waveEncode chan val 0x03#8 0x55#8), .clear]
      op := { mode := .fixed, chan := chan, vd := val, cycles := cyc }
      fb := waveEncode chan val 0x03#8 0x55#8
      cmdreg := 0#32
      dispState := .polling }

/-- 43_triangle_generator.md section 2 (the register form is the spec's decision D6): TRI runs in every state: the poll,
the latches, the sequencer started with the operands, and nothing else; no frame is sent by the start. That a start
takes `tri_done` back to 0 is log 25, and that a TRI in a state whose sequencer is not IDLE starts it again, which no
run meets, is log 24: both the model's choice. -/
def Obligations.TriStartsSequencer : Prop :=
  ∀ (vd : BitVec 12) (chan : Chan) (cyc : BitVec 8) (rsvd : BitVec 4) (m3 : BitVec 1) (s : State),
    exec (.tri vd chan cyc rsvd m3) s = .next { s with
      trace := s.trace ++ [.poll s.cmdreg]
      op := { mode := .triangle, chan := chan, vd := vd, cycles := cyc }
      dispState := .running
      tri := { phase := .up, sample := 0#12, left := cyc.toNat, forever := cyc.toNat == 0, chan := chan,
               delay := if vd = 0#12 then 1000 else vd.toNat, returned := false } }

/-- 44_arbitrary_generator.md: ARB runs in every state: the poll, the latches, the slot index 0, and nothing else. -/
def Obligations.ArbStartsAtSlotZero : Prop :=
  ∀ (vd : BitVec 12) (chan : Chan) (cyc : BitVec 8) (rsvd : BitVec 4) (s : State),
    exec (.arb vd chan cyc rsvd) s = .next { s with
      trace := s.trace ++ [.poll s.cmdreg]
      op := { mode := .arbitrary, chan := chan, vd := vd, cycles := cyc }
      dispState := .running
      arbIndex := 0 }

/-- 30_encoding.md section 5 and 41_wave_encoder.md section 3: FRAME.DACUPDATE runs in every state: one frame with opcode
0x03 and tag 0x55 is built in the frame buffer and handed to the transport, and nothing else changes. -/
def Obligations.DacUpdateSendsItsFrame : Prop :=
  ∀ (chan : Chan) (samp : Sample) (s : State),
    exec (.frameDacUpdate chan samp) s = .next { s with
      trace := s.trace ++ [.tx (waveEncode chan samp 0x03#8 0x55#8)]
      fb := waveEncode chan samp 0x03#8 0x55#8 }

/-- 44_arbitrary_generator.md: SLOT runs in every state: the high half and then the low half go out on the latched channel
with the run's opcode and tag, the low frame stays in the frame buffer, and nothing else changes. -/
def Obligations.SlotSendsHighThenLow : Prop :=
  ∀ (ignored : Byte) (high low : Sample) (s : State),
    exec (.slot ignored high low) s = .next { s with
      trace := s.trace ++ [.tx (waveEncode s.op.chan high s.cfg.opcArb s.cfg.tagArb),
        .tx (waveEncode s.op.chan low s.cfg.opcArb s.cfg.tagArb)]
      fb := waveEncode s.op.chan low s.cfg.opcArb s.cfg.tagArb }

/-- The frame of all instructions: no instruction touches the parameters, the boot position, the handle, the agenda, the
producer's slots or any byte of the waveform memory; a command that starts no generator leaves that generator's registers;
the frame and slot formats leave the command register, the latches and both generators' registers. -/
def Obligations.InstructionsKeepTheRest : Prop :=
  ∀ (i : Instr) (s t : State), exec i s = .next t →
    (t.cfg = s.cfg ∧ t.boot = s.boot ∧ t.devHandle = s.devHandle ∧ t.inFlight = s.inFlight ∧ t.draws = s.draws ∧
      t.agenda = s.agenda ∧ ∀ a, Memory.read t.mem a = Memory.read s.mem a) ∧
    match i with
    | .idle .. => t = s
    | .nop .. => t.tri = s.tri ∧ t.arbIndex = s.arbIndex ∧ t.fb = s.fb
    | .fixed .. => t.tri = s.tri ∧ t.arbIndex = s.arbIndex
    | .tri .. => t.cmdreg = s.cmdreg ∧ t.arbIndex = s.arbIndex ∧ t.fb = s.fb
    | .arb .. => t.cmdreg = s.cmdreg ∧ t.tri = s.tri ∧ t.fb = s.fb
    | .encode .. =>
        t.cmdreg = s.cmdreg ∧ t.dispState = s.dispState ∧ t.op = s.op ∧ t.tri = s.tri ∧ t.arbIndex = s.arbIndex ∧
          t.trace = s.trace
    | .frameDacUpdate .. | .slot .. =>
        t.cmdreg = s.cmdreg ∧ t.dispState = s.dispState ∧ t.op = s.op ∧ t.tri = s.tri ∧ t.arbIndex = s.arbIndex

/-! ## The step -/

/-- 40_command_dispatch.md section 1: when the block is ready, the step is the execution of the instruction that the
word in the command register decodes to, with nothing around it. -/
def Obligations.StepRunsDecodedCommand : Prop :=
  ∀ s : State, Ready s → step s = exec (decodeCommand s.cmdreg) s

/-- 40_command_dispatch.md section 1 and 70_reset_and_hazards.md section 1 (the first poll runs what it finds): a word
that the table decodes, placed where the machine reads its next command, is what the next step executes. What
`withFetchWord` sets (log 15) and that `decodeTableWord` reads every word as a command word (log 12) are the model's
choice. -/
def Obligations.StepRunsPlacedWord : Prop :=
  ∀ (s : State) (nbits w : Nat) (i : Instr), ({ s.cfg with frontEnd := true } : Params).wf = true →
    decodeTableWord nbits w = some i →
    step (s.withFetchWord nbits w) = exec i (s.withFetchWord nbits w)

/-- The two other places an instruction comes from, by the model's choice (log 12, and log 13 for the core's ports). In
an arbitrary run the step executes the instruction that the slot it reads is in the slot format, and then moves the
index on; in the core alone a move at the encoder's ports executes ENCODE. -/
def Obligations.StepRunsSlotAndPortInstructions : Prop :=
  (∀ s : State, InArbitrary s → s.cfg.arbLen ≠ 0 →
    ∃ t, exec (decodeSlot (s.slotRead s.arbIndex).1) (s.slotRead s.arbIndex).2 = .next t ∧ step s = .next t.nextSlot) ∧
  (∀ (s : State) (opcode : Byte) (chan : Chan) (samp : Sample) (tag : Byte) (rest : List Move),
    s.cfg.wf = true → s.cfg.frontEnd = false → s.agenda = .encPort opcode chan samp tag :: rest →
    step s = exec (.encode opcode chan samp tag) { s with agenda := rest })

/-- R71: a poll that sees `busy = 0` changes no state at all, whatever the other bits; a poll that sees `busy = 1` is
accepted at once. -/
def Obligations.PollWaitsForBusy : Prop :=
  ∀ s : State, Ready s →
    (s.cmdreg &&& 1#32 = 0#32 → step s = .next s) ∧
    (s.cmdreg &&& 1#32 = 1#32 → ∃ t evs, step s = .next t ∧ t.trace = s.trace ++ .poll s.cmdreg :: evs)

/-- R75: the dispatch of a no-op word: the trace is the poll and the clear, the register is 0, no frame is sent, no pause
made, no slot read. -/
def Obligations.NopDispatch : Prop :=
  ∀ s : State, Ready s → s.cmdreg &&& 0xF#32 = 0x1#32 →
    step s = .next { s with
      trace := s.trace ++ [.poll s.cmdreg, .clear]
      op := latchesOf s.cmdreg
      cmdreg := 0#32 }

/-- R95: the dispatch of a fixed word: the poll, exactly one frame of its channel and value with 0x03 and 0x55, the clear;
the generator's registers keep their values, no pause is made, and the other fields have no effect on the frame. -/
def Obligations.FixedDispatch : Prop :=
  ∀ s : State, Ready s → s.cmdreg &&& 0x3#32 = 0x3#32 →
    let f := waveEncode (channelSelector s.cmdreg) (valueOrDelay s.cmdreg) 0x03#8 0x55#8
    fixedTrace (channelSelector s.cmdreg) (valueOrDelay s.cmdreg) = [.tx f] ∧
    step s = .next { s with
      trace := s.trace ++ [.poll s.cmdreg, .tx f, .clear]
      op := latchesOf s.cmdreg
      fb := f
      cmdreg := 0#32 }

/-- 43_triangle_generator.md section 2 (the register form and the port are the spec's decision D6; that a start takes
`tri_done` back is log 25): a start writes the six sequencer registers from its operands and sends no frame, both from
the dispatcher and at the start port of the core alone, where a request is honoured only while no run is in progress. -/
def Obligations.StartLoadsSequencer : Prop :=
  (∀ s : State, Ready s → s.cmdreg &&& 0x7#32 = 0x5#32 →
    step s = .next { s with
      trace := s.trace ++ [.poll s.cmdreg]
      op := latchesOf s.cmdreg
      dispState := .running
      tri := { phase := .up, sample := 0#12, left := (cycleCount s.cmdreg).toNat,
               forever := (cycleCount s.cmdreg).toNat == 0, chan := channelSelector s.cmdreg,
               delay := delayOf (valueOrDelay s.cmdreg), returned := false } }) ∧
  (∀ (s : State) (chan : Chan) (cycles delay : Nat) (rest : List Move),
    s.cfg.wf = true → s.cfg.frontEnd = false → s.agenda = .triStart chan cycles delay :: rest →
    step s = .next { s with
      agenda := rest
      tri := if s.tri.phase = .idle then
          { phase := .up, sample := 0#12, left := cycles, forever := cycles == 0, chan := chan, delay := delay,
            returned := false }
        else s.tri })

/-- 44_arbitrary_generator.md (the register form is the spec's decision D6): an arbitrary dispatch starts at slot 0, and
every step of the run keeps the latched channel and stays in the run. -/
def Obligations.ArbDispatchKeepsChannel : Prop :=
  (∀ s : State, Ready s → s.cmdreg &&& 0xF#32 = 0x9#32 →
    step s = .next { s with
      trace := s.trace ++ [.poll s.cmdreg]
      op := latchesOf s.cmdreg
      dispState := .running
      arbIndex := 0 }) ∧
  (∀ s t : State, InArbitrary s → step s = .next t → t.op.chan = s.op.chan ∧ InArbitrary t)

/-! ## The triangle sequencer -/

/-- 43_triangle_generator.md section 2 (the step form is the spec's decision D6): one step of a run in progress sends
exactly the frame of the current sample, pauses if there is a delay, and advances as the rule's pseudocode does, with
the return shown at `tri_done` (log 25); channel, delay and the forever bit are not written. -/
def Obligations.TriStepSendsAndAdvances : Prop :=
  ∀ s : State, SequencerRuns s → s.tri.phase ≠ .idle →
    let f := waveEncode s.tri.chan s.tri.sample s.cfg.opcTri s.cfg.tagTri
    step s = .next { s with
      fb := f
      trace := s.trace ++ .tx f :: (if 0 < s.tri.delay then [.wait s.tri.delay] else [])
      tri :=
        if s.tri.phase = .up then
          if s.tri.sample.toNat < 4095 then { s.tri with sample := s.tri.sample + 1#12 }
          else { s.tri with phase := .down }
        else if 0 < s.tri.sample.toNat then { s.tri with sample := s.tri.sample - 1#12 }
        else if s.tri.forever = true then { s.tri with phase := .up }
        else if 1 < s.tri.left then { s.tri with left := s.tri.left - 1, phase := .up }
        else { s.tri with left := 0, phase := .idle, returned := true } }

/-- 43_triangle_generator.md section 2, the turns: at the top the phase turns and the sample stays 4095, at the bottom
of a cycle that another follows the phase turns and the sample stays 0; at every other step that does not end the run
the sample moves by exactly 1 and the phase stays. -/
def Obligations.TurnsRepeatTheSample : Prop :=
  ∀ s : State, SequencerRuns s → s.tri.phase ≠ .idle →
    ∃ t, step s = .next t ∧
      (s.tri.phase = .up → s.tri.sample.toNat = 4095 → t.tri.phase = .down ∧ t.tri.sample = s.tri.sample) ∧
      (s.tri.phase = .up → s.tri.sample.toNat ≠ 4095 →
        t.tri.phase = .up ∧ t.tri.sample.toNat = s.tri.sample.toNat + 1) ∧
      (s.tri.phase = .down → s.tri.sample.toNat ≠ 0 →
        t.tri.phase = .down ∧ t.tri.sample.toNat + 1 = s.tri.sample.toNat) ∧
      (s.tri.phase = .down → s.tri.sample.toNat = 0 → (s.tri.forever = true ∨ 1 < s.tri.left) →
        t.tri.phase = .up ∧ t.tri.sample = s.tri.sample)

/-- R106: every frame of a run with a delay is followed by exactly one pause of that delay, a run without one has none,
and a dispatched run always has one, of 1 to 4095 microseconds. -/
def Obligations.EveryFrameIsFollowedByItsPause : Prop :=
  ∀ s : State, SequencerRuns s → s.tri.phase ≠ .idle →
    ∃ t f, step s = .next t ∧
      t.trace = s.trace ++ (if s.tri.delay = 0 then [.tx f] else [.tx f, .wait s.tri.delay]) ∧
      t.tri.delay = s.tri.delay ∧
      (SystemInv s → InTriangle s → 1 ≤ s.tri.delay ∧ s.tri.delay ≤ 4095)

/-- 43_triangle_generator.md section 3 (the spec derives it): the values of the closed form, the period, the symmetry,
that each sample occurs exactly twice a period, the steps of 0 and 1, and the sum over one cycle. -/
def Obligations.TriSampleLaws : Prop :=
  (triSample 0 = 0 ∧ triSample 4095 = 4095 ∧ triSample 4096 = 4095 ∧ triSample 8191 = 0 ∧ triSample 8192 = 0 ∧
    triSample 8193 = 1) ∧
  (∀ k, (k % 8192 < 4096 → triSample k = k % 8192) ∧ (4096 ≤ k % 8192 → triSample k = 8191 - k % 8192)) ∧
  (∀ k, triSample (k + 8192) = triSample k) ∧
  (∀ j, j ≤ 8191 → triSample (8191 - j) = triSample j) ∧
  (∀ v, v ≤ 4095 → ∃ a b, a < 8192 ∧ b < 8192 ∧ a ≠ b ∧ ∀ k, k < 8192 → (triSample k = v ↔ k = a ∨ k = b)) ∧
  (∀ k, k % 4096 = 4095 → triSample (k + 1) = triSample k) ∧
  (∀ k, k % 4096 ≠ 4095 → triSample (k + 1) = triSample k + 1 ∨ triSample (k + 1) + 1 = triSample k) ∧
  ((List.range 8192).map triSample).sum = 16773120

/-- 43_triangle_generator.md sections 1 and 3: the samples that the document's loop emits in `n` cycles are the closed
form on the first `8192 * n` frame numbers. -/
def Obligations.LoopSamplesAreClosedForm : Prop :=
  ∀ n : Nat, triLoop n = (List.range (8192 * n)).map triSample

/-- 43_triangle_generator.md sections 1 to 3 (the step form is the spec's decision D6): the step-by-step sequencer
carries out the document's algorithm. From a start with `n ≥ 1` cycles the steps repeat, with the phase not IDLE, for
exactly `8192 * n` frames; then the phase is IDLE and the trace has grown by the loop's trace, and in the dispatcher the
next step clears the register; with `n = 0` the loop never ends. The closed form of the trace, with which both agree, is
the spec's own derivation (43_triangle_generator.md section 3). -/
def Obligations.ThreeDescriptionsAgree : Prop :=
  ∀ (s : State) (chan : Chan) (n delay : Nat), SequencerRuns s → s.tri = TriRegs.started chan n delay →
    (1 ≤ n →
      (∀ k, k < 8192 * n → ∃ u, runFor k s = .next u ∧ u.tri.phase ≠ .idle) ∧
      ∃ t, runFor (8192 * n) s = .next t ∧ t.tri.phase = .idle ∧
        t.trace = s.trace ++ triTrace s.cfg chan n delay ∧
        t.trace = s.trace ++ triLoopTrace s.cfg chan n delay ∧
        (InTriangle s → ∃ u, runFor (8192 * n + 1) s = .next u ∧ u.cmdreg = 0#32 ∧ u.trace = t.trace ++ [.clear])) ∧
    (n = 0 →
      (∀ k, ∃ u, runFor k s = .next u ∧ u.tri.phase ≠ .idle ∧
        u.trace = s.trace ++ triStreamPrefix s.cfg chan delay k) ∧
      ∀ m, ∃ u, runFor (8192 * m) s = .next u ∧ u.trace = s.trace ++ triLoopTrace s.cfg chan m delay)

/-- R109: a run of `n > 0` cycles sends exactly `8192 * n` frames, with as many pauses if there is a delay and none if
there is not, and returns; from the dispatcher that is at most 2088960 frames. -/
def Obligations.FiniteRunFrameCount : Prop :=
  (∀ (s : State) (chan : Chan) (n delay : Nat), SequencerRuns s → s.tri = TriRegs.started chan n delay → 1 ≤ n →
    ∃ t evs, runFor (8192 * n) s = .next t ∧ t.tri.phase = .idle ∧ t.trace = s.trace ++ evs ∧
      (evs.filter isTx).length = 8192 * n ∧
      (evs.filter isWait).length = if 0 < delay then 8192 * n else 0) ∧
  (∀ cyc : BitVec 8, 8192 * cyc.toNat ≤ 2088960)

/-- 10_state.md section 5 (the spec derives it): the frames sent and the registers determine each other for the whole of
a run; a finite run in progress has at least one cycle left and at most as many as it began with; after its last frame
the phase is IDLE with sample and count 0. -/
def Obligations.FrameNumberDeterminesRegisters : Prop :=
  ∀ (s : State) (chan : Chan) (n delay : Nat), SequencerRuns s → s.tri = TriRegs.started chan n delay →
    (∀ k, (n = 0 ∨ k < 8192 * n) →
      ∃ u, runFor k s = .next u ∧ u.tri.phase ≠ .idle ∧ AtFrame u.tri n k ∧
        (u.tri.forever = true ↔ n = 0) ∧ (n ≠ 0 → 1 ≤ u.tri.left ∧ u.tri.left ≤ n) ∧
        (u.tri.forever = false → n ≤ 255 → 1 ≤ u.tri.left ∧ u.tri.left ≤ 255)) ∧
    (n ≠ 0 → ∃ u, runFor (8192 * n) s = .next u ∧ u.tri.phase = .idle ∧ u.tri.sample = 0#12 ∧ u.tri.left = 0)

/-- R107: a dispatched run with cycle count 0 never returns: after any number of steps it is still in progress, nothing
was counted, the trace has grown by the infinite stream's events and by no clear, and the 8192-frame cycle repeats
without change. -/
def Obligations.ForeverRunNeverReturns : Prop :=
  ∀ (s : State) (chan : Chan) (delay : Nat), InTriangle s → s.tri = TriRegs.started chan 0 delay →
    ∀ k, ∃ u v, runFor k s = .next u ∧ runFor (k + 8192) s = .next v ∧
      u.tri.phase ≠ .idle ∧ u.dispState = .running ∧ u.tri.left = s.tri.left ∧ u.cmdreg = s.cmdreg ∧ v.tri = u.tri ∧
      u.trace = s.trace ++ triStreamPrefix s.cfg chan delay k ∧
      (triStreamPrefix s.cfg chan delay k).all (fun e => !isClear e && !isPoll e) = true

/-- R115: channel, opcode, tag and delay are those of the start for the whole of a run, and two runs with the same
operands produce the same events, whatever else the two machines hold. A host write changes the command register and
nothing of the run. -/
def Obligations.RunsWithSameOperandsAgree : Prop :=
  (∀ (s1 s2 : State) (chan : Chan) (n delay : Nat), SequencerRuns s1 → SequencerRuns s2 →
    s1.tri = TriRegs.started chan n delay → s2.tri = TriRegs.started chan n delay →
    s1.cfg.opcTri = s2.cfg.opcTri → s1.cfg.tagTri = s2.cfg.tagTri →
    ∀ k, (n = 0 ∨ k ≤ 8192 * n) →
      ∃ t1 t2 evs, runFor k s1 = .next t1 ∧ runFor k s2 = .next t2 ∧
        t1.trace = s1.trace ++ evs ∧ t2.trace = s2.trace ++ evs ∧ t1.tri = t2.tri ∧
        t1.tri.chan = chan ∧ t1.tri.delay = delay ∧
        ∀ e ∈ evs, e = .wait delay ∨
          ∃ samp, e = .tx (waveEncode chan samp s1.cfg.opcTri s1.cfg.tagTri)) ∧
  (∀ (s : State) (w : Word32) (rest : List Move), s.cfg.wf = true → s.cfg.frontEnd = true →
    s.agenda = .hostWrite w :: rest → step s = .next { s with cmdreg := w, agenda := rest })

/-! ## Dispatch and completion -/

/-- 40_command_dispatch.md sections 3 and 4: a finite command is carried out in finitely many steps; its whole trace is
`DispatchTrace`, the register ends 0, the block polls again, and a triangle leaves the sequencer IDLE and the frame of
sample 0 in the buffer. -/
def Obligations.FiniteDispatchCompletes : Prop :=
  ∀ s : State, Ready s → s.busy = true → infiniteCommand s.cmdreg = false →
    ∃ n t tr, dispatchTrace s.cfg s.cmdreg = some tr ∧ runFor n s = .next t ∧ Ready t ∧ t.cmdreg = 0#32 ∧
      t.op = latchesOf s.cmdreg ∧ t.trace = s.trace ++ tr ∧
      (modeOf s.cmdreg = .triangle → t.tri.phase = .idle ∧
        t.fb = waveEncode (channelSelector s.cmdreg) 0#12 s.cfg.opcTri s.cfg.tagTri)

/-- 40_command_dispatch.md section 3: when a dispatched triangle run has returned, the next step is the completing write
of 0 and nothing else, and the block polls again. -/
def Obligations.ReturnedRunIsCleared : Prop :=
  ∀ s : State, InTriangle s → s.tri.phase = .idle →
    step s = .next { s with trace := s.trace ++ [.clear], cmdreg := 0#32, dispState := .polling }

/-- R80: an infinite command leads to the dead end; there the dispatcher stays RUNNING, the block never polls and never
clears, the register keeps its word unless the host overwrites it, what it holds has no effect on the block, and no move
but a reset ends it. -/
def Obligations.InfiniteDispatchIsDeadEnd : Prop :=
  (∀ s : State, Ready s → infiniteCommand s.cmdreg = true →
    ∃ t, step s = .next t ∧ DeadEnd t ∧ t.cmdreg = s.cmdreg) ∧
  (∀ s t : State, DeadEnd s → noResetNext s = true → step s = .next t →
    DeadEnd t ∧
      (t.cmdreg = s.cmdreg ∨
        ∃ w rest, (s.agenda = .hostWrite w :: rest ∨ ∃ k, s.agenda = .hostWriteIn k w :: rest) ∧ t.cmdreg = w) ∧
      ∃ evs, t.trace = s.trace ++ evs ∧ evs.all (fun e => !isPoll e && !isClear e) = true) ∧
  (∀ (s : State) (w : Word32), DeadEnd s → s.cfg.wf = true → s.agenda = [] →
    ∃ t, step s = .next t ∧ step { s with cmdreg := w } = .next { t with cmdreg := w }) ∧
  (∀ (s : State) (r : ResetMove) (rest : List Move), DeadEnd s → s.cfg.wf = true → s.agenda = .reset r :: rest →
    ∃ t, step s = .next t ∧ t.dispState = .polling ∧ t.boot = .opening)

/-! ## The arbitrary generator and the waveform memory -/

/-- 44_arbitrary_generator.md (the step form is the spec's decision D6): one step of an arbitrary run reads the slot at
the index once and sends its high and then its low half; the index moves on modulo the length; where the slot's contents
are known they are what was read. -/
def Obligations.ArbStepPlaysOneSlot : Prop :=
  ∀ s : State, InArbitrary s → s.cfg.arbLen ≠ 0 →
    ∃ v d, (∀ w, s.slotStored s.arbIndex = some w → v = w) ∧
      step s = .next { s with
        trace := s.trace ++ [.slotRd s.arbIndex v,
          .tx (waveEncode s.op.chan (slotHigh v) s.cfg.opcArb s.cfg.tagArb),
          .tx (waveEncode s.op.chan (slotLow v) s.cfg.opcArb s.cfg.tagArb)]
        fb := waveEncode s.op.chan (slotLow v) s.cfg.opcArb s.cfg.tagArb
        arbIndex := (s.arbIndex + 1) % s.cfg.arbLen
        draws := d }

/-- 44_arbitrary_generator.md, trace of a run: whatever the reads answer, `n` steps play slots `first`, `first + 1`, ...
modulo the length, in order, without end; and with the contents known and the producer silent they answer those
contents. -/
def Obligations.ArbRunPlaysSlotsInOrder : Prop :=
  ∀ s : State, InArbitrary s → s.cfg.arbLen ≠ 0 → s.arbIndex < s.cfg.arbLen →
    (∀ n, ∃ (t : State) (vs : List Word32), runFor n s = .next t ∧ InArbitrary t ∧ vs.length = n ∧
      t.trace = s.trace ++ (List.range n).flatMap fun m =>
        arbEvents s.cfg s.op.chan ((s.arbIndex + m) % s.cfg.arbLen) (vs.getD m 0#32)) ∧
    (∀ contents : Nat → Word32, (∀ i, i < s.cfg.arbLen → s.slotStored i = some (contents i)) →
      ∀ n, ∃ t, runFor n s = .next t ∧
        t.trace = s.trace ++ arbStreamPrefix s.cfg s.op.chan contents s.arbIndex n)

/-- 44_arbitrary_generator.md (the spec derives it): with a buffer of length 0 an arbitrary run reads nothing, sends
nothing and never returns, and its stream is empty. -/
def Obligations.EmptyBufferRunsForever : Prop :=
  ∀ s : State, InArbitrary s → s.cfg.arbLen = 0 → ∀ n, runFor n s = .next s ∧
    ∀ chan contents first, arbStreamPrefix s.cfg chan contents first n = []

/-- 20_memory.md section 7: a slot holds the word last written to it once the producer's write has landed; while a write
is in flight nothing is known of it; another slot is not touched; and no other move changes what any slot is known to
hold. -/
def Obligations.SlotsHoldWhatTheProducerWrote : Prop :=
  (∀ (s : State) (i : Nat) (v : Word32) (rest : List Move), s.cfg.wf = true → s.hasSlot i = true → s.inFlight.Nodup →
    s.agenda = .slotWrite i v :: rest →
    ∃ t, step s = .next t ∧ t.slotStored i = some v ∧ ∀ j, j ≠ i → t.slotStored j = s.slotStored j) ∧
  (∀ (s : State) (i : Nat) (rest : List Move), s.cfg.wf = true → s.hasSlot i = true → s.agenda = .slotBegin i :: rest →
    ∃ t, step s = .next t ∧ t.slotStored i = none ∧ ∀ j, j ≠ i → t.slotStored j = s.slotStored j) ∧
  (∀ s t : State, bufferQuietNext s = true → (∀ i rest, s.agenda ≠ .slotBegin i :: rest) → step s = .next t →
    ∀ j, t.slotStored j = s.slotStored j)

/-- 20_memory.md section 6: the block never writes the waveform buffer: unless the move is a producer's write or a reset,
every byte reads as before. -/
def Obligations.OnlyTheProducerWritesTheBuffer : Prop :=
  ∀ s t : State, bufferQuietNext s = true → step s = .next t → ∀ a, Memory.read t.mem a = Memory.read s.mem a

/-! ## Reset, boot and the other agents -/

/-- 10_state.md section 9: what the spec gives the machine right after reset, for every choice of the parameters:
polling, no triangle run, the handle invalid with boot still to run, the register at CMD_RESET, and nothing known of the
buffer. The values of the registers that the spec leaves unspecified are the model's (log 1) and are not stated. -/
def Obligations.ResetLeavesTheStatedValues : Prop :=
  (∀ p : Params, (State.resetWith p).dispState = .polling ∧ (State.resetWith p).tri.phase = .idle ∧
    (State.resetWith p).devHandle = .invalid ∧ (State.resetWith p).boot = .opening ∧
    (State.resetWith p).cmdreg = p.cmdReset ∧ (State.resetWith p).cfg = p ∧ (State.resetWith p).trace = [] ∧
    ∀ i, (State.resetWith p).slotStored i = none) ∧
  State.reset = State.resetWith Config.defaultParams

/-- 70_reset_and_hazards.md section 2 (the order is the spec's decision D11): from reset, boot opens, configures, sends
`INIT_FRAMES` one transfer each in order, and only then does the loop begin; no command is accepted and the register is
not read before. The statement holds for the core alone too, where that it goes through the same boot is not the spec's
but presumed by the model (log 13). -/
def Obligations.BootRunsInOrder : Prop :=
  ∀ p : Params, p.wf = true →
    (∀ k, k < 3 + p.initFrames.length →
      ∃ u, runFor k (State.resetWith p) = .next u ∧ u.boot ≠ .done ∧ u.dispState = .polling ∧
        u.cmdreg = p.cmdReset ∧ u.trace = (p.initFrames.take (k - 2)).map .tx) ∧
    (∃ u, runFor 1 (State.resetWith p) = .next u ∧ u.devHandle = .opened) ∧
    (∃ u, runFor 2 (State.resetWith p) = .next u ∧ u.devHandle = .configured ∧ u.trace = []) ∧
    ∃ t, runFor (3 + p.initFrames.length) (State.resetWith p) = .next t ∧ t.boot = .done ∧ t.devHandle = .configured ∧
      t.dispState = .polling ∧ t.cmdreg = p.cmdReset ∧ t.trace = p.initFrames.map .tx

/-- 70_reset_and_hazards.md section 1 (the spec's decisions D10 and D20; log 9): a reset takes effect between two events
of the block's step, any number of them having happened; the control registers take their reset values, the operation is
abandoned with no completion write of its own, and boot starts again. -/
def Obligations.ResetAbandonsTheOperation : Prop :=
  ∀ (s : State) (r : ResetMove) (rest : List Move), s.cfg.wf = true → s.agenda = .reset r :: rest →
    ∃ t u evs, step s = .next t ∧ blockStep { s with agenda := rest } = .next u ∧ u.trace = s.trace ++ evs ∧
      t.trace = s.trace ++ evs.take r.afterEvents ∧ (r.afterEvents = 0 → t.trace = s.trace) ∧
      t.dispState = .polling ∧ t.tri.phase = .idle ∧ t.devHandle = .invalid ∧ t.boot = .opening ∧
      t.cfg = s.cfg ∧ t.agenda = rest ∧
      t.cmdreg =
        (if r.rewritesCmd then s.cfg.cmdReset else if (evs.take r.afterEvents).any isClear then 0#32 else s.cmdreg)

/-- 70_reset_and_hazards.md section 1 (the spec derives it): a reset between two steps does not clear the command
register on the block's behalf: unless the reset rewrites it, the word of the abandoned operation is still there after
boot, and the block accepts and runs it again. -/
def Obligations.ResetAloneRestartsTheCommand : Prop :=
  ∀ (s : State) (r : ResetMove), s.cfg.wf = true → s.cfg.frontEnd = true → s.agenda = [.reset r] → r.afterEvents = 0 →
    r.rewritesCmd = false → s.busy = true →
    ∃ t, runFor (4 + s.cfg.initFrames.length) s = .next t ∧ Ready t ∧ t.cmdreg = s.cmdreg ∧
      t.trace = s.trace ++ s.cfg.initFrames.map .tx ∧
      ∃ u evs, step t = .next u ∧ u.trace = t.trace ++ .poll s.cmdreg :: evs

/-- 20_memory.md section 8 (the spec's decision D5): a host write is seen by the very next poll, with nothing in between
needed, and a running operation never sees it. -/
def Obligations.HostWriteIsSeenByTheNextPoll : Prop :=
  ∀ (s : State) (w : Word32), s.cfg.wf = true → s.cfg.frontEnd = true → s.boot = .done → s.agenda = [.hostWrite w] →
    (s.dispState = .polling → runFor 2 s = exec (decodeCommand w) { s with cmdreg := w, agenda := [] }) ∧
    (s.dispState = .running →
      ∃ t, step { s with agenda := [] } = .next t ∧
        runFor 2 s = .next { t with cmdreg := if t.dispState = .running then w else 0#32 })

/-- 20_memory.md section 7 and 60_exceptions.md section 4 (the spec's decision D14; the event grain is log 8): a host
write inside a step of the block. Before the first event the step begins with the word in the register; after it, the
step is the one that would have been taken anyway, and the word is erased unread if the clear is still to come and stays
if it is not. In a no-op or fixed dispatch that loses a word written after the poll and before the clear; at the clear
of a returned triangle run both orders exist. -/
def Obligations.HostWriteInsideAStepIsLostAtTheClear : Prop :=
  (∀ (s : State) (w : Word32) (rest : List Move), s.cfg.wf = true → s.cfg.frontEnd = true →
    s.agenda = .hostWriteIn 0 w :: rest → step s = blockStep { s with cmdreg := w, agenda := rest }) ∧
  (∀ (s : State) (k : Nat) (w : Word32) (rest : List Move), s.cfg.wf = true → s.cfg.frontEnd = true →
    s.agenda = .hostWriteIn k w :: rest → k ≠ 0 →
    ∃ t evs, blockStep { s with agenda := rest } = .next t ∧ t.trace = s.trace ++ evs ∧
      step s = .next { t with cmdreg := if (evs.drop k).any isClear then 0#32 else w }) ∧
  (∀ (s : State) (k : Nat) (w : Word32) (rest : List Move), s.cfg.wf = true → s.cfg.frontEnd = true → s.boot = .done →
    s.dispState = .polling → s.busy = true → (modeOf s.cmdreg = .noop ∨ modeOf s.cmdreg = .fixed) →
    s.agenda = .hostWriteIn k w :: rest → k ≠ 0 →
    ∃ t, exec (decodeCommand s.cmdreg) { s with agenda := rest } = .next t ∧
      step s = .next { t with
        cmdreg := if k < (if modeOf s.cmdreg = .noop then 2 else 3) then 0#32 else w }) ∧
  (∀ (s : State) (k : Nat) (w : Word32) (rest : List Move), s.cfg.wf = true → s.cfg.frontEnd = true → s.boot = .done →
    s.dispState = .running → s.op.mode = .triangle → s.tri.phase = .idle → s.agenda = .hostWriteIn k w :: rest →
    step s = .next { s with
      agenda := rest
      trace := s.trace ++ [.clear]
      cmdreg := if k = 0 then 0#32 else w
      dispState := .polling })

/-- 43_triangle_generator.md section 2, the ports (the spec's decision D6): a step of a run that has not returned makes
`tri_done` 1 exactly if the run returns in it. That it reads 0 at reset, that a start makes it 0, and that it stays
while no run is started are the model's choice (log 25): the spec gives the port no reset value and does not say whether
it is a level. -/
def Obligations.DonePortReportsTheReturn : Prop :=
  (∀ p : Params, (State.resetWith p).triDone = false) ∧
  (∀ (s : State) (chan : Chan) (cycles delay : Nat) (rest : List Move), s.cfg.wf = true → s.cfg.frontEnd = false →
    s.agenda = .triStart chan cycles delay :: rest → s.tri.phase = .idle →
    ∃ t, step s = .next t ∧ t.triDone = false ∧ t.tri.phase = .up) ∧
  (∀ s : State, SequencerRuns s → s.tri.phase ≠ .idle → s.triDone = false →
    ∃ t, step s = .next t ∧ (t.triDone = true ↔ t.tri.phase = .idle)) ∧
  (∀ s : State, BareCore s → s.tri.phase = .idle → ∃ t, step s = .next t ∧ t.triDone = s.triDone)

/-! ## Invariants and whole-machine rules -/

/-- The invariant of the system and the held-command invariant hold at reset, for every choice of the parameters. -/
def Obligations.InvariantsHoldAtReset : Prop :=
  ∀ p : Params, SystemInv (State.resetWith p) ∧ HeldInv (State.resetWith p)

/-- Every step keeps the invariant: the waveform memory canonical and inside the buffer, the handle in step with boot,
no dispatch before boot is over, no triangle run while polling, while running one of the two generators with operands
that are the latched ones, and `tri_done` at 1 only while no run is in progress (log 25) (10_state.md sections 4 to 6;
70_reset_and_hazards.md section 2). -/
def Obligations.StepKeepsSystemInvariant : Prop :=
  ∀ s t : State, SystemInv s → step s = .next t → SystemInv t

/-- Under a host that keeps the discipline, every step keeps this: while a command is carried out the register still
holds the accepted word, with `busy = 1`, and the latches are that word's fields (20_memory.md section 7). -/
def Obligations.DisciplinedHostKeepsTheCommand : Prop :=
  ∀ s t : State, HeldInv s → hostStepOk s = true → step s = .next t → HeldInv t

/-- No step writes a parameter, and no step takes back an event: the trace only grows (00_scope.md sections 4 and 5). -/
def Obligations.ParametersStayAndTraceGrows : Prop :=
  ∀ s t : State, step s = .next t → t.cfg = s.cfg ∧ ∃ evs, t.trace = s.trace ++ evs

/-- 60_exceptions.md section 12: the block always has an enabled step: in every configuration that has a meaning the
block's step answers a next state, alone or as the next move. That the only refusals are an illegal configuration and a
move that an interface lacks is log 16, the second of them the model's choice. -/
def Obligations.BlockIsNeverStuck : Prop :=
  (∀ s : State, s.cfg.wf = true → s.agenda = [] → ∃ t, step s = .next t) ∧
  (∀ (s : State) (rest : List Move), s.cfg.wf = true → s.agenda = .block :: rest → ∃ t, step s = .next t) ∧
  (∀ (s : State) (r : Refusal), step s = .refused r →
    (s.cfg.wf = false ∧ r = .illegalConfig) ∨ (s.agenda ≠ [] ∧ r = .noSuchMove))

/-- 20_memory.md section 4 (the spec's decision D12): with both addresses multiples of 4 every slot's address is one
too; a configuration that breaks the requirement, in the machine that has a command register, is refused. -/
def Obligations.MisalignedConfigurationIsRefused : Prop :=
  (∀ (s : State) (i : Nat), s.cfg.wbBase % 4 = 0 → s.slotAddr i % 4 = 0) ∧
  (∀ s : State, s.cfg.frontEnd = true → (s.cfg.cmdAddr % 4 ≠ 0 ∨ s.cfg.wbBase % 4 ≠ 0) →
    step s = .refused .illegalConfig) ∧
  (∀ s : State, s.cfg.frontEnd = true → s.cfg.wbBase ≤ s.cfg.cmdAddr →
    s.cfg.cmdAddr < s.cfg.wbBase + 4 * s.cfg.arbLen → step s = .refused .illegalConfig)
end

