-- ==== Sys2Proof/Laws/Decode.lean ====
section
/-!
SUPPORT. The fields of a word and the word of an instruction as natural numbers, so that facts about decoding are linear
arithmetic: one lemma per field, per flag and per constructor.
-/
namespace Sys2Proof.Laws

/-! ## A bit and a field of a word -/

theorem getLsbD_eq_decide (w : Word32) (i : Nat) : w.getLsbD i = decide (w.toNat / 2 ^ i % 2 = 1) := by
  rw [BitVec.getLsbD, Nat.testBit_eq_decide_div_mod_eq]

theorem extractLsb'_toNat_div {n : Nat} (w : Word32) (start : Nat) :
    (w.extractLsb' start n).toNat = w.toNat / 2 ^ start % 2 ^ n := by
  rw [BitVec.extractLsb'_toNat, Nat.shiftRight_eq_div_pow]

theorem busyBit_eq (w : Word32) : busyBit w = decide (w.toNat % 2 = 1) := by
  rw [busyBit, getLsbD_eq_decide, Nat.pow_zero, Nat.div_one]

theorem modeFlag1_eq (w : Word32) : modeFlag1 w = decide (w.toNat / 2 % 2 = 1) := by
  rw [modeFlag1, getLsbD_eq_decide, Nat.pow_one]

theorem modeFlag2_eq (w : Word32) : modeFlag2 w = decide (w.toNat / 4 % 2 = 1) := by
  rw [modeFlag2, getLsbD_eq_decide]; simp only [Nat.reducePow]

theorem modeFlag3_eq (w : Word32) : modeFlag3 w = decide (w.toNat / 8 % 2 = 1) := by
  rw [modeFlag3, getLsbD_eq_decide]; simp only [Nat.reducePow]

theorem valueOrDelay_toNat (w : Word32) : (valueOrDelay w).toNat = w.toNat / 0x100000 % 0x1000 := by
  rw [valueOrDelay, extractLsb'_toNat_div]; simp only [Nat.reducePow]

theorem channelSelector_toNat (w : Word32) : (channelSelector w).toNat = w.toNat / 0x10000 % 0x10 := by
  rw [channelSelector, extractLsb'_toNat_div]; simp only [Nat.reducePow]

theorem cycleCount_toNat (w : Word32) : (cycleCount w).toNat = w.toNat / 0x100 % 0x100 := by
  rw [cycleCount, extractLsb'_toNat_div]; simp only [Nat.reducePow]

theorem unnamedBits_toNat (w : Word32) : (unnamedBits w).toNat = w.toNat / 0x10 % 0x10 := by
  rw [unnamedBits, extractLsb'_toNat_div]; simp only [Nat.reducePow]

/-! ## The word of each instruction -/

theorem encode_idle_toNat (rest : BitVec 31) : (encode (.idle rest)).toNat = rest.toNat * 2 := by
  rw [encode, BitVec.toNat_ofNat, Nat.mod_eq_of_lt]; omega

theorem encode_nop_toNat (vd : BitVec 12) (chan : Chan) (cyc : BitVec 8) (rsvd : BitVec 4) :
    (encode (.nop vd chan cyc rsvd)).toNat =
      vd.toNat * 0x100000 + chan.toNat * 0x10000 + cyc.toNat * 0x100 + rsvd.toNat * 0x10 + 1 := by
  rw [encode, BitVec.toNat_ofNat, Nat.mod_eq_of_lt]; omega

theorem encode_fixed_toNat (val : Sample) (chan : Chan) (cyc : BitVec 8) (rsvd : BitVec 4) (m3 m2 : BitVec 1) :
    (encode (.fixed val chan cyc rsvd m3 m2)).toNat =
      val.toNat * 0x100000 + chan.toNat * 0x10000 + cyc.toNat * 0x100 + rsvd.toNat * 0x10 +
        m3.toNat * 8 + m2.toNat * 4 + 3 := by
  rw [encode, BitVec.toNat_ofNat, Nat.mod_eq_of_lt]; omega

theorem encode_tri_toNat (vd : BitVec 12) (chan : Chan) (cyc : BitVec 8) (rsvd : BitVec 4) (m3 : BitVec 1) :
    (encode (.tri vd chan cyc rsvd m3)).toNat =
      vd.toNat * 0x100000 + chan.toNat * 0x10000 + cyc.toNat * 0x100 + rsvd.toNat * 0x10 + m3.toNat * 8 + 5 := by
  rw [encode, BitVec.toNat_ofNat, Nat.mod_eq_of_lt]; omega

theorem encode_arb_toNat (vd : BitVec 12) (chan : Chan) (cyc : BitVec 8) (rsvd : BitVec 4) :
    (encode (.arb vd chan cyc rsvd)).toNat =
      vd.toNat * 0x100000 + chan.toNat * 0x10000 + cyc.toNat * 0x100 + rsvd.toNat * 0x10 + 9 := by
  rw [encode, BitVec.toNat_ofNat, Nat.mod_eq_of_lt]; omega

theorem encode_encode_toNat (opcode : Byte) (chan : Chan) (samp : Sample) (tag : Byte) :
    (encode (.encode opcode chan samp tag)).toNat =
      opcode.toNat * 0x1000000 + chan.toNat * 0x100000 + samp.toNat * 0x100 + tag.toNat := by
  rw [encode, BitVec.toNat_ofNat, Nat.mod_eq_of_lt]; omega

theorem encode_frameDacUpdate_toNat (chan : Chan) (samp : Sample) :
    (encode (.frameDacUpdate chan samp)).toNat =
      0x03 * 0x1000000 + chan.toNat * 0x100000 + samp.toNat * 0x100 + 0x55 := by
  rw [encode, BitVec.toNat_ofNat, Nat.mod_eq_of_lt]; omega

theorem encode_slot_toNat (ignored : Byte) (high low : Sample) :
    (encode (.slot ignored high low)).toNat = ignored.toNat * 0x1000000 + high.toNat * 0x1000 + low.toNat := by
  rw [encode, BitVec.toNat_ofNat, Nat.mod_eq_of_lt]; omega

theorem frame_toWord_toNat (f : Frame) :
    f.toWord.toNat = f.f0.toNat * 0x1000000 + f.f1.toNat * 0x10000 + f.f2.toNat * 0x100 + f.f3.toNat := by
  rw [Frame.toWord, BitVec.toNat_ofNat, Nat.mod_eq_of_lt]; omega

/-- A mask of the low `n` bits is a remainder. -/
theorem and_lowMask_toNat (w : Word32) (n : Nat) (hn : n < 32) :
    (w &&& BitVec.ofNat 32 (2 ^ n - 1)).toNat = w.toNat % 2 ^ n := by
  have hlt : 2 ^ n - 1 < 2 ^ 32 := by
    have := Nat.pow_lt_pow_right (a := 2) (by decide) hn
    omega
  rw [BitVec.toNat_and, BitVec.toNat_ofNat, Nat.mod_eq_of_lt hlt, Nat.and_two_pow_sub_one_eq_mod]

/-- A masked comparison of the low `n` bits is a remainder. -/
theorem and_lowMask_eq_iff (w : Word32) (n p : Nat) (hn : n < 32) (hp : p < 2 ^ n) :
    w &&& BitVec.ofNat 32 (2 ^ n - 1) = BitVec.ofNat 32 p ↔ w.toNat % 2 ^ n = p := by
  rw [← BitVec.toNat_inj, and_lowMask_toNat w n hn, BitVec.toNat_ofNat, Nat.mod_eq_of_lt (a := p)]
  exact hp.trans (Nat.pow_lt_pow_right (by decide) hn)

/-! ## Which operation a word is (R55), one lemma per operation -/

theorem decodeCommand_idle {w : Word32} (h : w.toNat % 2 = 0) : decodeCommand w = .idle (w.extractLsb' 1 31) := by
  rw [decodeCommand, busyBit_eq, if_neg]
  rw [decide_eq_true_eq]; omega

theorem decodeCommand_fixed {w : Word32} (h : w.toNat % 4 = 3) :
    decodeCommand w = .fixed (valueOrDelay w) (channelSelector w) (cycleCount w) (unnamedBits w)
      (w.extractLsb' 3 1) (w.extractLsb' 2 1) := by
  rw [decodeCommand, busyBit_eq, modeFlag1_eq, if_pos, if_pos] <;> rw [decide_eq_true_eq] <;> omega

theorem decodeCommand_tri {w : Word32} (h : w.toNat % 8 = 5) :
    decodeCommand w = .tri (valueOrDelay w) (channelSelector w) (cycleCount w) (unnamedBits w) (w.extractLsb' 3 1) := by
  rw [decodeCommand, busyBit_eq, modeFlag1_eq, modeFlag2_eq, if_pos, if_neg, if_pos] <;>
    rw [decide_eq_true_eq] <;> omega

theorem decodeCommand_arb {w : Word32} (h : w.toNat % 16 = 9) :
    decodeCommand w = .arb (valueOrDelay w) (channelSelector w) (cycleCount w) (unnamedBits w) := by
  rw [decodeCommand, busyBit_eq, modeFlag1_eq, modeFlag2_eq, modeFlag3_eq, if_pos, if_neg, if_neg, if_pos] <;>
    rw [decide_eq_true_eq] <;> omega

theorem decodeCommand_nop {w : Word32} (h : w.toNat % 16 = 1) :
    decodeCommand w = .nop (valueOrDelay w) (channelSelector w) (cycleCount w) (unnamedBits w) := by
  rw [decodeCommand, busyBit_eq, modeFlag1_eq, modeFlag2_eq, modeFlag3_eq, if_pos, if_neg, if_neg, if_neg] <;>
    rw [decide_eq_true_eq] <;> omega

/-- The five patterns cover every word. -/
theorem word_cases (w : Word32) :
    w.toNat % 2 = 0 ∨ w.toNat % 4 = 3 ∨ w.toNat % 8 = 5 ∨ w.toNat % 16 = 9 ∨ w.toNat % 16 = 1 := by
  omega

end Sys2Proof.Laws
end

