-- ==== Sys2Proof/Laws/Encoder.lean ====
section
/-!
SUPPORT. The joined bytes of the Wave Encoder and of its inverse as numbers.
-/
namespace Sys2Proof.Laws

open Sys2Proof.Machine

/-- Two fields that share no bit join to their sum (R85). -/
theorem shiftLeft_or_eq_add (a b n : Nat) (h : b < 2 ^ n) : a <<< n ||| b = a * 2 ^ n + b := by
  rw [← Nat.shiftLeft_add_eq_or_of_lt h, Nat.shiftLeft_eq]

/-- Byte 1: the channel nibble above the sample's bits 11:8. -/
theorem waveEncode_f1_toNat (chan : Chan) (samp : Sample) (opcode tag : Byte) :
    (waveEncode chan samp opcode tag).f1.toNat = chan.toNat * 16 + samp.toNat / 256 := by
  have hc := chan.isLt
  have hs := samp.isLt
  rw [waveEncode, BitVec.toNat_or, BitVec.toNat_shiftLeft, BitVec.toNat_setWidth, BitVec.toNat_setWidth,
    BitVec.toNat_ushiftRight, Nat.shiftRight_eq_div_pow, Nat.mod_eq_of_lt (a := chan.toNat) (by omega),
    Nat.mod_eq_of_lt (a := samp.toNat / 2 ^ 8) (by omega), Nat.mod_eq_of_lt (by rw [Nat.shiftLeft_eq]; omega),
    shiftLeft_or_eq_add _ _ 4 (by omega)]
  simp only [Nat.reducePow]

/-- Byte 2: the sample's low byte. -/
theorem waveEncode_f2_toNat (chan : Chan) (samp : Sample) (opcode tag : Byte) :
    (waveEncode chan samp opcode tag).f2.toNat = samp.toNat % 256 := by
  have h : (samp &&& 0x0FF#12).toNat = samp.toNat % 256 := by
    rw [BitVec.toNat_and]
    exact Nat.and_two_pow_sub_one_eq_mod samp.toNat 8
  rw [waveEncode, BitVec.toNat_setWidth, h]; omega

/-- The channel a frame carries. -/
theorem frameFields_chan_toNat (f : Frame) : (frameFields f).chan.toNat = f.f1.toNat / 16 := by
  have := f.f1.isLt
  rw [frameFields, BitVec.toNat_setWidth, BitVec.toNat_ushiftRight, Nat.shiftRight_eq_div_pow]; omega

/-- The sample a frame carries: the low nibble of byte 1 above byte 2. -/
theorem frameFields_samp_toNat (f : Frame) : (frameFields f).samp.toNat = f.f1.toNat % 16 * 256 + f.f2.toNat := by
  have h2 := f.f2.isLt
  have h : (f.f1 &&& 0x0F#8).toNat = f.f1.toNat % 16 := by
    rw [BitVec.toNat_and]
    exact Nat.and_two_pow_sub_one_eq_mod f.f1.toNat 4
  rw [frameFields, BitVec.toNat_or, BitVec.toNat_shiftLeft, BitVec.toNat_setWidth, BitVec.toNat_setWidth, h,
    Nat.mod_eq_of_lt (a := f.f1.toNat % 16) (by omega), Nat.mod_eq_of_lt (a := f.f2.toNat) (by omega),
    Nat.mod_eq_of_lt (by rw [Nat.shiftLeft_eq]; omega), shiftLeft_or_eq_add _ _ 8 (by omega)]
  simp only [Nat.reducePow]

end Sys2Proof.Laws
end

