-- ==== Sys2Proof/Laws/Memory.lean ====
section
/-!
SUPPORT. The laws of the waveform memory: a read after a write, that every write keeps the canonical form, which cells a
write leaves, and the same for whole words.
-/
namespace Sys2Proof.Laws

open Sys2Proof.Machine

theorem memory_read_write (m : List Host.Cell) (a x : Nat) (v : Byte) :
    Memory.read (Memory.write m a v) x = if x = a then some v else Memory.read m x := by
  induction m with
  | nil => rfl
  | cons c rest ih =>
    obtain ⟨b, w⟩ := c
    rw [Memory.write]
    split_ifs with h1 h2 h3 h4 <;> simp_all [Memory.read]

theorem memory_above_iff (x : Nat) (m : List Host.Cell) : Memory.above x m = true ↔ ∀ c ∈ m, x < c.1 := by
  simp [Memory.above]

/-- A cell of a written memory is the written one or one that was there. -/
theorem memory_mem_write (m : List Host.Cell) (a : Nat) (v : Byte) (c : Host.Cell)
    (h : c ∈ Memory.write m a v) : c = (a, v) ∨ c ∈ m := by
  induction m with
  | nil => simpa [Memory.write] using h
  | cons d rest ih =>
    obtain ⟨b, w⟩ := d
    rw [Memory.write] at h
    split_ifs at h with h1 h2
    · simpa using h
    · subst h2; simp only [List.mem_cons] at h ⊢; tauto
    · simp only [List.mem_cons] at h ⊢
      rcases h with h | h
      · exact Or.inr (Or.inl h)
      · exact (ih h).imp_right Or.inr

/-- A write keeps the canonical form. -/
theorem memory_write_wf (m : List Host.Cell) (a : Nat) (v : Byte) (h : Memory.wf m = true) :
    Memory.wf (Memory.write m a v) = true := by
  induction m with
  | nil => rfl
  | cons c rest ih =>
    obtain ⟨b, w⟩ := c
    simp only [Memory.wf, Bool.and_eq_true, memory_above_iff] at h
    rw [Memory.write]
    split_ifs with h1 h2
    · simp only [Memory.wf, Bool.and_eq_true, memory_above_iff, List.forall_mem_cons]
      exact ⟨⟨h1, fun c hc => lt_trans h1 (h.1 c hc)⟩, h.1, h.2⟩
    · subst h2
      simpa only [Memory.wf, Bool.and_eq_true, memory_above_iff] using h
    · simp only [Memory.wf, Bool.and_eq_true, memory_above_iff]
      refine ⟨fun c hc => ?_, ih h.2⟩
      rcases memory_mem_write rest a v c hc with rfl | hc
      · show b < a; omega
      · exact h.1 c hc

theorem memory_writeWord_wf (m : List Host.Cell) (a : Nat) (w : Word32) (h : Memory.wf m = true) :
    Memory.wf (Memory.writeWord m a w) = true :=
  memory_write_wf _ _ _ (memory_write_wf _ _ _ (memory_write_wf _ _ _ (memory_write_wf _ _ _ h)))

/-- A cell of a memory in which a word was written lies in that word or was there. -/
theorem memory_mem_writeWord (m : List Host.Cell) (a : Nat) (w : Word32) (c : Host.Cell)
    (h : c ∈ Memory.writeWord m a w) : (a ≤ c.1 ∧ c.1 < a + 4) ∨ c ∈ m := by
  rw [Memory.writeWord] at h
  rcases memory_mem_write _ _ _ _ h with rfl | h
  · left; constructor <;> simp
  rcases memory_mem_write _ _ _ _ h with rfl | h
  · left; constructor <;> simp
  rcases memory_mem_write _ _ _ _ h with rfl | h
  · left; constructor <;> simp
  rcases memory_mem_write _ _ _ _ h with rfl | h
  · left; constructor <;> simp
  exact Or.inr h

/-- A byte outside the written word reads as before. -/
theorem memory_read_writeWord_other (m : List Host.Cell) (a x : Nat) (w : Word32) (h : x < a ∨ a + 4 ≤ x) :
    Memory.read (Memory.writeWord m a w) x = Memory.read m x := by
  simp only [Memory.writeWord, memory_read_write]
  split_ifs <;> first | omega | rfl

/-- The number of a word's byte `k`. -/
theorem byteOf_toNat (w : Word32) (k : Nat) : (byteOf w k).toNat = w.toNat / 2 ^ (8 * k) % 256 := by
  rw [byteOf, BitVec.extractLsb'_toNat, Nat.shiftRight_eq_div_pow]

/-- The four bytes of a word make the word again. -/
theorem word_of_bytes (w : Word32) :
    BitVec.ofNat 32 ((byteOf w 0).toNat + (byteOf w 1).toNat * 0x100 + (byteOf w 2).toNat * 0x10000 +
      (byteOf w 3).toNat * 0x1000000) = w := by
  apply BitVec.eq_of_toNat_eq
  have := w.isLt
  rw [BitVec.toNat_ofNat, byteOf_toNat, byteOf_toNat, byteOf_toNat, byteOf_toNat, Nat.mod_eq_of_lt] <;> omega

theorem memory_readWord_writeWord (m : List Host.Cell) (a : Nat) (w : Word32) :
    Memory.readWord (Memory.writeWord m a w) a = some w := by
  have h (k : Nat) (hk : k < 4) : Memory.read (Memory.writeWord m a w) (a + k) = some (byteOf w k) := by
    simp only [Memory.writeWord, memory_read_write]
    interval_cases k <;> simp
  have h0 : Memory.read (Memory.writeWord m a w) a = some (byteOf w 0) := h 0 (by decide)
  rw [Memory.readWord, h0, h 1 (by decide), h 2 (by decide), h 3 (by decide)]
  exact congrArg some (word_of_bytes w)

/-- A word apart from the written one reads as before. -/
theorem memory_readWord_writeWord_other (m : List Host.Cell) (a x : Nat) (w : Word32) (h : x + 4 ≤ a ∨ a + 4 ≤ x) :
    Memory.readWord (Memory.writeWord m a w) x = Memory.readWord m x := by
  rw [Memory.readWord, Memory.readWord, memory_read_writeWord_other m a x w (by omega),
    memory_read_writeWord_other m a (x + 1) w (by omega), memory_read_writeWord_other m a (x + 2) w (by omega),
    memory_read_writeWord_other m a (x + 3) w (by omega)]

end Sys2Proof.Laws
end

