-- ==== Sys2Proof/Laws/Operands.lean ====
section
/-!
SUPPORT. The operand forms as numbers: the mode of each operation's words, the delay, and the two halves of a slot.
-/
namespace Sys2Proof.Laws

open Sys2Proof.Machine

theorem modeOf_fixed {w : Word32} (h : w.toNat % 4 = 3) : modeOf w = .fixed := by
  rw [modeOf, modeFlag1_eq, if_pos]
  rw [decide_eq_true_eq]; omega

theorem modeOf_triangle {w : Word32} (h : w.toNat % 8 = 5) : modeOf w = .triangle := by
  rw [modeOf, modeFlag1_eq, modeFlag2_eq, if_neg, if_pos] <;> rw [decide_eq_true_eq] <;> omega

theorem modeOf_arbitrary {w : Word32} (h : w.toNat % 16 = 9) : modeOf w = .arbitrary := by
  rw [modeOf, modeFlag1_eq, modeFlag2_eq, modeFlag3_eq, if_neg, if_neg, if_pos] <;> rw [decide_eq_true_eq] <;> omega

theorem modeOf_noop {w : Word32} (h : w.toNat % 16 = 1) : modeOf w = .noop := by
  rw [modeOf, modeFlag1_eq, modeFlag2_eq, modeFlag3_eq, if_neg, if_neg, if_neg] <;> rw [decide_eq_true_eq] <;> omega

/-- The default stands for 0 and for nothing else. -/
theorem delayOf_cases (vd : BitVec 12) :
    (vd = 0#12 ∧ delayOf vd = 1000) ∨ (vd ≠ 0#12 ∧ 0 < vd.toNat ∧ delayOf vd = vd.toNat) := by
  by_cases h : vd = 0#12
  · exact Or.inl ⟨h, by rw [delayOf, if_pos h, Config.delayDefault]⟩
  · refine Or.inr ⟨h, Nat.pos_of_ne_zero fun h0 => h (BitVec.eq_of_toNat_eq h0), by rw [delayOf, if_neg h]⟩

/-- A mask of the low 12 bits, narrowed, is a remainder. -/
theorem mask12_toNat (v : Word32) : ((v &&& 0xFFF#32).setWidth 12).toNat = v.toNat % 0x1000 := by
  have h : (v &&& 0xFFF#32).toNat = v.toNat % 0x1000 := and_lowMask_toNat v 12 (by decide)
  rw [BitVec.toNat_setWidth, h]; omega

theorem slotHigh_toNat (v : Word32) : (slotHigh v).toNat = v.toNat / 0x1000 % 0x1000 := by
  rw [slotHigh, mask12_toNat, BitVec.toNat_ushiftRight, Nat.shiftRight_eq_div_pow]

theorem slotLow_toNat (v : Word32) : (slotLow v).toNat = v.toNat % 0x1000 := by
  rw [slotLow, mask12_toNat]

/-- The halves as the slot decoder reads them. -/
theorem slotHigh_eq (v : Word32) : slotHigh v = v.extractLsb' 12 12 := by
  apply BitVec.eq_of_toNat_eq
  rw [slotHigh_toNat, extractLsb'_toNat_div]; simp only [Nat.reducePow]

theorem slotLow_eq (v : Word32) : slotLow v = v.extractLsb' 0 12 := by
  apply BitVec.eq_of_toNat_eq
  rw [slotLow_toNat, extractLsb'_toNat_div, Nat.pow_zero, Nat.div_one]; simp only [Nat.reducePow]

end Sys2Proof.Laws
end

