-- ==== Sys2Proof/Laws/State.lean ====
section
/-!
SUPPORT. One lemma per field per update: what each named operation of the machine does to each field of the state.
-/
namespace Sys2Proof.Laws

open Sys2Proof.Machine
@[simp] theorem cmdRead_eq (s : State) : s.cmdRead = s.cmdreg := rfl

/-! ## emit -/

@[simp] theorem emit_cfg (e : Event) (s : State) : (s.emit e).cfg = s.cfg := rfl
@[simp] theorem emit_boot (e : Event) (s : State) : (s.emit e).boot = s.boot := rfl
@[simp] theorem emit_devHandle (e : Event) (s : State) : (s.emit e).devHandle = s.devHandle := rfl
@[simp] theorem emit_cmdreg (e : Event) (s : State) : (s.emit e).cmdreg = s.cmdreg := rfl
@[simp] theorem emit_dispState (e : Event) (s : State) : (s.emit e).dispState = s.dispState := rfl
@[simp] theorem emit_op (e : Event) (s : State) : (s.emit e).op = s.op := rfl
@[simp] theorem emit_tri (e : Event) (s : State) : (s.emit e).tri = s.tri := rfl
@[simp] theorem emit_arbIndex (e : Event) (s : State) : (s.emit e).arbIndex = s.arbIndex := rfl
@[simp] theorem emit_fb (e : Event) (s : State) : (s.emit e).fb = s.fb := rfl
@[simp] theorem emit_mem (e : Event) (s : State) : (s.emit e).mem = s.mem := rfl
@[simp] theorem emit_inFlight (e : Event) (s : State) : (s.emit e).inFlight = s.inFlight := rfl
@[simp] theorem emit_draws (e : Event) (s : State) : (s.emit e).draws = s.draws := rfl
@[simp] theorem emit_trace (e : Event) (s : State) : (s.emit e).trace = s.trace ++ [e] := rfl
@[simp] theorem emit_agenda (e : Event) (s : State) : (s.emit e).agenda = s.agenda := rfl

/-! ## cmdClear -/

@[simp] theorem cmdClear_cfg (s : State) : (s.cmdClear).cfg = s.cfg := rfl
@[simp] theorem cmdClear_boot (s : State) : (s.cmdClear).boot = s.boot := rfl
@[simp] theorem cmdClear_devHandle (s : State) : (s.cmdClear).devHandle = s.devHandle := rfl
@[simp] theorem cmdClear_cmdreg (s : State) : (s.cmdClear).cmdreg = 0#32 := rfl
@[simp] theorem cmdClear_dispState (s : State) : (s.cmdClear).dispState = s.dispState := rfl
@[simp] theorem cmdClear_op (s : State) : (s.cmdClear).op = s.op := rfl
@[simp] theorem cmdClear_tri (s : State) : (s.cmdClear).tri = s.tri := rfl
@[simp] theorem cmdClear_arbIndex (s : State) : (s.cmdClear).arbIndex = s.arbIndex := rfl
@[simp] theorem cmdClear_fb (s : State) : (s.cmdClear).fb = s.fb := rfl
@[simp] theorem cmdClear_mem (s : State) : (s.cmdClear).mem = s.mem := rfl
@[simp] theorem cmdClear_inFlight (s : State) : (s.cmdClear).inFlight = s.inFlight := rfl
@[simp] theorem cmdClear_draws (s : State) : (s.cmdClear).draws = s.draws := rfl
@[simp] theorem cmdClear_trace (s : State) : (s.cmdClear).trace = s.trace ++ [.clear] := rfl
@[simp] theorem cmdClear_agenda (s : State) : (s.cmdClear).agenda = s.agenda := rfl

/-! ## encodeFrame -/

@[simp] theorem encodeFrame_cfg (c : Chan) (n : Sample) (o g : Byte) (s : State) : (s.encodeFrame c n o g).cfg = s.cfg := rfl
@[simp] theorem encodeFrame_boot (c : Chan) (n : Sample) (o g : Byte) (s : State) : (s.encodeFrame c n o g).boot = s.boot := rfl
@[simp] theorem encodeFrame_devHandle (c : Chan) (n : Sample) (o g : Byte) (s : State) : (s.encodeFrame c n o g).devHandle = s.devHandle := rfl
@[simp] theorem encodeFrame_cmdreg (c : Chan) (n : Sample) (o g : Byte) (s : State) : (s.encodeFrame c n o g).cmdreg = s.cmdreg := rfl
@[simp] theorem encodeFrame_dispState (c : Chan) (n : Sample) (o g : Byte) (s : State) : (s.encodeFrame c n o g).dispState = s.dispState := rfl
@[simp] theorem encodeFrame_op (c : Chan) (n : Sample) (o g : Byte) (s : State) : (s.encodeFrame c n o g).op = s.op := rfl
@[simp] theorem encodeFrame_tri (c : Chan) (n : Sample) (o g : Byte) (s : State) : (s.encodeFrame c n o g).tri = s.tri := rfl
@[simp] theorem encodeFrame_arbIndex (c : Chan) (n : Sample) (o g : Byte) (s : State) : (s.encodeFrame c n o g).arbIndex = s.arbIndex := rfl
@[simp] theorem encodeFrame_fb (c : Chan) (n : Sample) (o g : Byte) (s : State) : (s.encodeFrame c n o g).fb = waveEncode c n o g := rfl
@[simp] theorem encodeFrame_mem (c : Chan) (n : Sample) (o g : Byte) (s : State) : (s.encodeFrame c n o g).mem = s.mem := rfl
@[simp] theorem encodeFrame_inFlight (c : Chan) (n : Sample) (o g : Byte) (s : State) : (s.encodeFrame c n o g).inFlight = s.inFlight := rfl
@[simp] theorem encodeFrame_draws (c : Chan) (n : Sample) (o g : Byte) (s : State) : (s.encodeFrame c n o g).draws = s.draws := rfl
@[simp] theorem encodeFrame_trace (c : Chan) (n : Sample) (o g : Byte) (s : State) : (s.encodeFrame c n o g).trace = s.trace := rfl
@[simp] theorem encodeFrame_agenda (c : Chan) (n : Sample) (o g : Byte) (s : State) : (s.encodeFrame c n o g).agenda = s.agenda := rfl

/-! ## transfer -/

@[simp] theorem transfer_cfg (s : State) : (s.transfer).cfg = s.cfg := rfl
@[simp] theorem transfer_boot (s : State) : (s.transfer).boot = s.boot := rfl
@[simp] theorem transfer_devHandle (s : State) : (s.transfer).devHandle = s.devHandle := rfl
@[simp] theorem transfer_cmdreg (s : State) : (s.transfer).cmdreg = s.cmdreg := rfl
@[simp] theorem transfer_dispState (s : State) : (s.transfer).dispState = s.dispState := rfl
@[simp] theorem transfer_op (s : State) : (s.transfer).op = s.op := rfl
@[simp] theorem transfer_tri (s : State) : (s.transfer).tri = s.tri := rfl
@[simp] theorem transfer_arbIndex (s : State) : (s.transfer).arbIndex = s.arbIndex := rfl
@[simp] theorem transfer_fb (s : State) : (s.transfer).fb = s.fb := rfl
@[simp] theorem transfer_mem (s : State) : (s.transfer).mem = s.mem := rfl
@[simp] theorem transfer_inFlight (s : State) : (s.transfer).inFlight = s.inFlight := rfl
@[simp] theorem transfer_draws (s : State) : (s.transfer).draws = s.draws := rfl
@[simp] theorem transfer_trace (s : State) : (s.transfer).trace = s.trace ++ [.tx s.fb] := rfl
@[simp] theorem transfer_agenda (s : State) : (s.transfer).agenda = s.agenda := rfl

/-! ## sendFrame -/

@[simp] theorem sendFrame_cfg (c : Chan) (n : Sample) (o g : Byte) (s : State) : (s.sendFrame c n o g).cfg = s.cfg := rfl
@[simp] theorem sendFrame_boot (c : Chan) (n : Sample) (o g : Byte) (s : State) : (s.sendFrame c n o g).boot = s.boot := rfl
@[simp] theorem sendFrame_devHandle (c : Chan) (n : Sample) (o g : Byte) (s : State) : (s.sendFrame c n o g).devHandle = s.devHandle := rfl
@[simp] theorem sendFrame_cmdreg (c : Chan) (n : Sample) (o g : Byte) (s : State) : (s.sendFrame c n o g).cmdreg = s.cmdreg := rfl
@[simp] theorem sendFrame_dispState (c : Chan) (n : Sample) (o g : Byte) (s : State) : (s.sendFrame c n o g).dispState = s.dispState := rfl
@[simp] theorem sendFrame_op (c : Chan) (n : Sample) (o g : Byte) (s : State) : (s.sendFrame c n o g).op = s.op := rfl
@[simp] theorem sendFrame_tri (c : Chan) (n : Sample) (o g : Byte) (s : State) : (s.sendFrame c n o g).tri = s.tri := rfl
@[simp] theorem sendFrame_arbIndex (c : Chan) (n : Sample) (o g : Byte) (s : State) : (s.sendFrame c n o g).arbIndex = s.arbIndex := rfl
@[simp] theorem sendFrame_fb (c : Chan) (n : Sample) (o g : Byte) (s : State) : (s.sendFrame c n o g).fb = waveEncode c n o g := rfl
@[simp] theorem sendFrame_mem (c : Chan) (n : Sample) (o g : Byte) (s : State) : (s.sendFrame c n o g).mem = s.mem := rfl
@[simp] theorem sendFrame_inFlight (c : Chan) (n : Sample) (o g : Byte) (s : State) : (s.sendFrame c n o g).inFlight = s.inFlight := rfl
@[simp] theorem sendFrame_draws (c : Chan) (n : Sample) (o g : Byte) (s : State) : (s.sendFrame c n o g).draws = s.draws := rfl
@[simp] theorem sendFrame_trace (c : Chan) (n : Sample) (o g : Byte) (s : State) : (s.sendFrame c n o g).trace = s.trace ++ [.tx (waveEncode c n o g)] := rfl
@[simp] theorem sendFrame_agenda (c : Chan) (n : Sample) (o g : Byte) (s : State) : (s.sendFrame c n o g).agenda = s.agenda := rfl

/-! ## accept -/

@[simp] theorem accept_cfg (l : OpLatches) (s : State) : (s.accept l).cfg = s.cfg := rfl
@[simp] theorem accept_boot (l : OpLatches) (s : State) : (s.accept l).boot = s.boot := rfl
@[simp] theorem accept_devHandle (l : OpLatches) (s : State) : (s.accept l).devHandle = s.devHandle := rfl
@[simp] theorem accept_cmdreg (l : OpLatches) (s : State) : (s.accept l).cmdreg = s.cmdreg := rfl
@[simp] theorem accept_dispState (l : OpLatches) (s : State) : (s.accept l).dispState = .running := rfl
@[simp] theorem accept_op (l : OpLatches) (s : State) : (s.accept l).op = l := rfl
@[simp] theorem accept_tri (l : OpLatches) (s : State) : (s.accept l).tri = s.tri := rfl
@[simp] theorem accept_arbIndex (l : OpLatches) (s : State) : (s.accept l).arbIndex = s.arbIndex := rfl
@[simp] theorem accept_fb (l : OpLatches) (s : State) : (s.accept l).fb = s.fb := rfl
@[simp] theorem accept_mem (l : OpLatches) (s : State) : (s.accept l).mem = s.mem := rfl
@[simp] theorem accept_inFlight (l : OpLatches) (s : State) : (s.accept l).inFlight = s.inFlight := rfl
@[simp] theorem accept_draws (l : OpLatches) (s : State) : (s.accept l).draws = s.draws := rfl
@[simp] theorem accept_trace (l : OpLatches) (s : State) : (s.accept l).trace = s.trace ++ [.poll s.cmdreg] := rfl
@[simp] theorem accept_agenda (l : OpLatches) (s : State) : (s.accept l).agenda = s.agenda := rfl

/-! ## complete -/

@[simp] theorem complete_cfg (s : State) : (s.complete).cfg = s.cfg := rfl
@[simp] theorem complete_boot (s : State) : (s.complete).boot = s.boot := rfl
@[simp] theorem complete_devHandle (s : State) : (s.complete).devHandle = s.devHandle := rfl
@[simp] theorem complete_cmdreg (s : State) : (s.complete).cmdreg = 0#32 := rfl
@[simp] theorem complete_dispState (s : State) : (s.complete).dispState = .polling := rfl
@[simp] theorem complete_op (s : State) : (s.complete).op = s.op := rfl
@[simp] theorem complete_tri (s : State) : (s.complete).tri = s.tri := rfl
@[simp] theorem complete_arbIndex (s : State) : (s.complete).arbIndex = s.arbIndex := rfl
@[simp] theorem complete_fb (s : State) : (s.complete).fb = s.fb := rfl
@[simp] theorem complete_mem (s : State) : (s.complete).mem = s.mem := rfl
@[simp] theorem complete_inFlight (s : State) : (s.complete).inFlight = s.inFlight := rfl
@[simp] theorem complete_draws (s : State) : (s.complete).draws = s.draws := rfl
@[simp] theorem complete_trace (s : State) : (s.complete).trace = s.trace ++ [.clear] := rfl
@[simp] theorem complete_agenda (s : State) : (s.complete).agenda = s.agenda := rfl

/-! ## startTri -/

@[simp] theorem startTri_cfg (c : Chan) (n d : Nat) (s : State) : (s.startTri c n d).cfg = s.cfg := rfl
@[simp] theorem startTri_boot (c : Chan) (n d : Nat) (s : State) : (s.startTri c n d).boot = s.boot := rfl
@[simp] theorem startTri_devHandle (c : Chan) (n d : Nat) (s : State) : (s.startTri c n d).devHandle = s.devHandle := rfl
@[simp] theorem startTri_cmdreg (c : Chan) (n d : Nat) (s : State) : (s.startTri c n d).cmdreg = s.cmdreg := rfl
@[simp] theorem startTri_dispState (c : Chan) (n d : Nat) (s : State) : (s.startTri c n d).dispState = s.dispState := rfl
@[simp] theorem startTri_op (c : Chan) (n d : Nat) (s : State) : (s.startTri c n d).op = s.op := rfl
@[simp] theorem startTri_tri (c : Chan) (n d : Nat) (s : State) : (s.startTri c n d).tri = TriRegs.started c n d := rfl
@[simp] theorem startTri_arbIndex (c : Chan) (n d : Nat) (s : State) : (s.startTri c n d).arbIndex = s.arbIndex := rfl
@[simp] theorem startTri_fb (c : Chan) (n d : Nat) (s : State) : (s.startTri c n d).fb = s.fb := rfl
@[simp] theorem startTri_mem (c : Chan) (n d : Nat) (s : State) : (s.startTri c n d).mem = s.mem := rfl
@[simp] theorem startTri_inFlight (c : Chan) (n d : Nat) (s : State) : (s.startTri c n d).inFlight = s.inFlight := rfl
@[simp] theorem startTri_draws (c : Chan) (n d : Nat) (s : State) : (s.startTri c n d).draws = s.draws := rfl
@[simp] theorem startTri_trace (c : Chan) (n d : Nat) (s : State) : (s.startTri c n d).trace = s.trace := rfl
@[simp] theorem startTri_agenda (c : Chan) (n d : Nat) (s : State) : (s.startTri c n d).agenda = s.agenda := rfl

/-! ## nextSlot -/

@[simp] theorem nextSlot_cfg (s : State) : (s.nextSlot).cfg = s.cfg := rfl
@[simp] theorem nextSlot_boot (s : State) : (s.nextSlot).boot = s.boot := rfl
@[simp] theorem nextSlot_devHandle (s : State) : (s.nextSlot).devHandle = s.devHandle := rfl
@[simp] theorem nextSlot_cmdreg (s : State) : (s.nextSlot).cmdreg = s.cmdreg := rfl
@[simp] theorem nextSlot_dispState (s : State) : (s.nextSlot).dispState = s.dispState := rfl
@[simp] theorem nextSlot_op (s : State) : (s.nextSlot).op = s.op := rfl
@[simp] theorem nextSlot_tri (s : State) : (s.nextSlot).tri = s.tri := rfl
@[simp] theorem nextSlot_arbIndex (s : State) : (s.nextSlot).arbIndex = (s.arbIndex + 1) % s.cfg.arbLen := rfl
@[simp] theorem nextSlot_fb (s : State) : (s.nextSlot).fb = s.fb := rfl
@[simp] theorem nextSlot_mem (s : State) : (s.nextSlot).mem = s.mem := rfl
@[simp] theorem nextSlot_inFlight (s : State) : (s.nextSlot).inFlight = s.inFlight := rfl
@[simp] theorem nextSlot_draws (s : State) : (s.nextSlot).draws = s.draws := rfl
@[simp] theorem nextSlot_trace (s : State) : (s.nextSlot).trace = s.trace := rfl
@[simp] theorem nextSlot_agenda (s : State) : (s.nextSlot).agenda = s.agenda := rfl

/-! ## slotWrite -/

@[simp] theorem slotWrite_cfg (i : Nat) (v : Word32) (s : State) : (s.slotWrite i v).cfg = s.cfg := rfl
@[simp] theorem slotWrite_boot (i : Nat) (v : Word32) (s : State) : (s.slotWrite i v).boot = s.boot := rfl
@[simp] theorem slotWrite_devHandle (i : Nat) (v : Word32) (s : State) : (s.slotWrite i v).devHandle = s.devHandle := rfl
@[simp] theorem slotWrite_cmdreg (i : Nat) (v : Word32) (s : State) : (s.slotWrite i v).cmdreg = s.cmdreg := rfl
@[simp] theorem slotWrite_dispState (i : Nat) (v : Word32) (s : State) : (s.slotWrite i v).dispState = s.dispState := rfl
@[simp] theorem slotWrite_op (i : Nat) (v : Word32) (s : State) : (s.slotWrite i v).op = s.op := rfl
@[simp] theorem slotWrite_tri (i : Nat) (v : Word32) (s : State) : (s.slotWrite i v).tri = s.tri := rfl
@[simp] theorem slotWrite_arbIndex (i : Nat) (v : Word32) (s : State) : (s.slotWrite i v).arbIndex = s.arbIndex := rfl
@[simp] theorem slotWrite_fb (i : Nat) (v : Word32) (s : State) : (s.slotWrite i v).fb = s.fb := rfl
@[simp] theorem slotWrite_mem (i : Nat) (v : Word32) (s : State) : (s.slotWrite i v).mem = Memory.writeWord s.mem (s.slotAddr i) v := rfl
@[simp] theorem slotWrite_inFlight (i : Nat) (v : Word32) (s : State) : (s.slotWrite i v).inFlight = s.inFlight.erase i := rfl
@[simp] theorem slotWrite_draws (i : Nat) (v : Word32) (s : State) : (s.slotWrite i v).draws = s.draws := rfl
@[simp] theorem slotWrite_trace (i : Nat) (v : Word32) (s : State) : (s.slotWrite i v).trace = s.trace := rfl
@[simp] theorem slotWrite_agenda (i : Nat) (v : Word32) (s : State) : (s.slotWrite i v).agenda = s.agenda := rfl

/-! ## pause -/

@[simp] theorem pause_cfg (d : Nat) (s : State) : (s.pause d).cfg = s.cfg := by
  unfold State.pause; split <;> simp
@[simp] theorem pause_boot (d : Nat) (s : State) : (s.pause d).boot = s.boot := by
  unfold State.pause; split <;> simp
@[simp] theorem pause_devHandle (d : Nat) (s : State) : (s.pause d).devHandle = s.devHandle := by
  unfold State.pause; split <;> simp
@[simp] theorem pause_cmdreg (d : Nat) (s : State) : (s.pause d).cmdreg = s.cmdreg := by
  unfold State.pause; split <;> simp
@[simp] theorem pause_dispState (d : Nat) (s : State) : (s.pause d).dispState = s.dispState := by
  unfold State.pause; split <;> simp
@[simp] theorem pause_op (d : Nat) (s : State) : (s.pause d).op = s.op := by
  unfold State.pause; split <;> simp
@[simp] theorem pause_tri (d : Nat) (s : State) : (s.pause d).tri = s.tri := by
  unfold State.pause; split <;> simp
@[simp] theorem pause_arbIndex (d : Nat) (s : State) : (s.pause d).arbIndex = s.arbIndex := by
  unfold State.pause; split <;> simp
@[simp] theorem pause_fb (d : Nat) (s : State) : (s.pause d).fb = s.fb := by
  unfold State.pause; split <;> simp
@[simp] theorem pause_mem (d : Nat) (s : State) : (s.pause d).mem = s.mem := by
  unfold State.pause; split <;> simp
@[simp] theorem pause_inFlight (d : Nat) (s : State) : (s.pause d).inFlight = s.inFlight := by
  unfold State.pause; split <;> simp
@[simp] theorem pause_draws (d : Nat) (s : State) : (s.pause d).draws = s.draws := by
  unfold State.pause; split <;> simp
@[simp] theorem pause_trace (d : Nat) (s : State) : (s.pause d).trace = s.trace ++ if 0 < d then [.wait d] else [] := by
  unfold State.pause; split <;> simp
@[simp] theorem pause_agenda (d : Nat) (s : State) : (s.pause d).agenda = s.agenda := by
  unfold State.pause; split <;> simp

/-! ## triStep -/

@[simp] theorem triStep_cfg (s : State) : (s.triStep).cfg = s.cfg := by
  simp [State.triStep]
@[simp] theorem triStep_boot (s : State) : (s.triStep).boot = s.boot := by
  simp [State.triStep]
@[simp] theorem triStep_devHandle (s : State) : (s.triStep).devHandle = s.devHandle := by
  simp [State.triStep]
@[simp] theorem triStep_cmdreg (s : State) : (s.triStep).cmdreg = s.cmdreg := by
  simp [State.triStep]
@[simp] theorem triStep_dispState (s : State) : (s.triStep).dispState = s.dispState := by
  simp [State.triStep]
@[simp] theorem triStep_op (s : State) : (s.triStep).op = s.op := by
  simp [State.triStep]
@[simp] theorem triStep_tri (s : State) : (s.triStep).tri = s.tri.advance := by
  simp [State.triStep]
@[simp] theorem triStep_arbIndex (s : State) : (s.triStep).arbIndex = s.arbIndex := by
  simp [State.triStep]
@[simp] theorem triStep_fb (s : State) :
    (s.triStep).fb = waveEncode s.tri.chan s.tri.sample s.cfg.opcTri s.cfg.tagTri := by
  simp [State.triStep]
@[simp] theorem triStep_mem (s : State) : (s.triStep).mem = s.mem := by
  simp [State.triStep]
@[simp] theorem triStep_inFlight (s : State) : (s.triStep).inFlight = s.inFlight := by
  simp [State.triStep]
@[simp] theorem triStep_draws (s : State) : (s.triStep).draws = s.draws := by
  simp [State.triStep]
@[simp] theorem triStep_trace (s : State) :
    (s.triStep).trace = s.trace ++ (.tx (waveEncode s.tri.chan s.tri.sample s.cfg.opcTri s.cfg.tagTri) ::
      if 0 < s.tri.delay then [.wait s.tri.delay] else []) := by
  simp [State.triStep]
@[simp] theorem triStep_agenda (s : State) : (s.triStep).agenda = s.agenda := by
  simp [State.triStep]

/-! ## overwrittenAfter -/

@[simp] theorem overwrittenAfter_cfg (k : Nat) (w : Word32) (t : State) (s : State) : (s.overwrittenAfter k w t).cfg = t.cfg := rfl
@[simp] theorem overwrittenAfter_boot (k : Nat) (w : Word32) (t : State) (s : State) : (s.overwrittenAfter k w t).boot = t.boot := rfl
@[simp] theorem overwrittenAfter_devHandle (k : Nat) (w : Word32) (t : State) (s : State) : (s.overwrittenAfter k w t).devHandle = t.devHandle := rfl
@[simp] theorem overwrittenAfter_cmdreg (k : Nat) (w : Word32) (t : State) (s : State) :
    (s.overwrittenAfter k w t).cmdreg = if ((s.eventsOfStep t).drop k).contains .clear then t.cmdreg else w := rfl
@[simp] theorem overwrittenAfter_dispState (k : Nat) (w : Word32) (t : State) (s : State) : (s.overwrittenAfter k w t).dispState = t.dispState := rfl
@[simp] theorem overwrittenAfter_op (k : Nat) (w : Word32) (t : State) (s : State) : (s.overwrittenAfter k w t).op = t.op := rfl
@[simp] theorem overwrittenAfter_tri (k : Nat) (w : Word32) (t : State) (s : State) : (s.overwrittenAfter k w t).tri = t.tri := rfl
@[simp] theorem overwrittenAfter_arbIndex (k : Nat) (w : Word32) (t : State) (s : State) : (s.overwrittenAfter k w t).arbIndex = t.arbIndex := rfl
@[simp] theorem overwrittenAfter_fb (k : Nat) (w : Word32) (t : State) (s : State) : (s.overwrittenAfter k w t).fb = t.fb := rfl
@[simp] theorem overwrittenAfter_mem (k : Nat) (w : Word32) (t : State) (s : State) : (s.overwrittenAfter k w t).mem = t.mem := rfl
@[simp] theorem overwrittenAfter_inFlight (k : Nat) (w : Word32) (t : State) (s : State) : (s.overwrittenAfter k w t).inFlight = t.inFlight := rfl
@[simp] theorem overwrittenAfter_draws (k : Nat) (w : Word32) (t : State) (s : State) : (s.overwrittenAfter k w t).draws = t.draws := rfl
@[simp] theorem overwrittenAfter_trace (k : Nat) (w : Word32) (t : State) (s : State) : (s.overwrittenAfter k w t).trace = t.trace := rfl
@[simp] theorem overwrittenAfter_agenda (k : Nat) (w : Word32) (t : State) (s : State) : (s.overwrittenAfter k w t).agenda = t.agenda := rfl

/-! ## envReset -/

@[simp] theorem envReset_cfg (r : ResetMove) (s : State) : (s.envReset r).cfg = s.cfg := rfl
@[simp] theorem envReset_boot (r : ResetMove) (s : State) : (s.envReset r).boot = .opening := rfl
@[simp] theorem envReset_devHandle (r : ResetMove) (s : State) : (s.envReset r).devHandle = .invalid := rfl
@[simp] theorem envReset_cmdreg (r : ResetMove) (s : State) : (s.envReset r).cmdreg = if r.rewritesCmd then s.cfg.cmdReset else s.cmdreg := rfl
@[simp] theorem envReset_dispState (r : ResetMove) (s : State) : (s.envReset r).dispState = .polling := rfl
@[simp] theorem envReset_op (r : ResetMove) (s : State) : (s.envReset r).op = (State.resetWith s.cfg).op := rfl
@[simp] theorem envReset_tri (r : ResetMove) (s : State) : (s.envReset r).tri = (State.resetWith s.cfg).tri := rfl
@[simp] theorem envReset_arbIndex (r : ResetMove) (s : State) : (s.envReset r).arbIndex = 0 := rfl
@[simp] theorem envReset_fb (r : ResetMove) (s : State) : (s.envReset r).fb = (State.resetWith s.cfg).fb := rfl
@[simp] theorem envReset_mem (r : ResetMove) (s : State) : (s.envReset r).mem = if r.losesBuffer then [] else s.mem := rfl
@[simp] theorem envReset_inFlight (r : ResetMove) (s : State) : (s.envReset r).inFlight = s.inFlight := rfl
@[simp] theorem envReset_draws (r : ResetMove) (s : State) : (s.envReset r).draws = s.draws := rfl
@[simp] theorem envReset_trace (r : ResetMove) (s : State) : (s.envReset r).trace = s.trace := rfl
@[simp] theorem envReset_agenda (r : ResetMove) (s : State) : (s.envReset r).agenda = s.agenda := rfl

end Sys2Proof.Laws
end

