-- ==== Sys2Proof/Laws/Ops.lean ====
section
/-!
SUPPORT. One lemma per shared operation that says everything it can do, for proofs to cite instead of unfolding it: reading a
slot, the advance of the sequencer, and that the block's step always answers.
-/
namespace Sys2Proof.Laws

open Sys2Proof.Machine

/-- What a slot is known to hold depends on the memory, the writes in flight and the base address only. -/
theorem slotStored_congr {s t : State} (hm : t.mem = s.mem) (hf : t.inFlight = s.inFlight)
    (hb : t.cfg.wbBase = s.cfg.wbBase) (i : Nat) : t.slotStored i = s.slotStored i := by
  rw [State.slotStored, State.slotStored, State.slotAddr, State.slotAddr, hm, hf, hb]

/-- A slot whose contents are known reads as them. -/
theorem slotRead_known {i : Nat} {s : State} {v : Word32} (h : s.slotStored i = some v) :
    s.slotRead i = (v, s.emit (.slotRd i v)) := by
  rw [State.slotRead, h]

/-- Any other slot reads as the next free value. -/
theorem slotRead_free {i : Nat} {s : State} (h : s.slotStored i = none) :
    s.slotRead i = (Config.slotDraw s.draws,
      { s with draws := s.draws + 1, trace := s.trace ++ [.slotRd i (Config.slotDraw s.draws)] }) := by
  rw [State.slotRead, h]; rfl

/-- Whichever it is, a read adds its event, may count a draw, and touches nothing else. -/
theorem slotRead_spec (i : Nat) (s : State) :
    ∃ v d, s.slotRead i = (v, { s with draws := d, trace := s.trace ++ [.slotRd i v] }) ∧
      (s.slotStored i = some v ∧ d = s.draws ∨
        s.slotStored i = none ∧ v = Config.slotDraw s.draws ∧ d = s.draws + 1) := by
  cases h : s.slotStored i with
  | some v => exact ⟨v, s.draws, slotRead_known h, Or.inl ⟨rfl, rfl⟩⟩
  | none => exact ⟨_, _, slotRead_free h, Or.inr ⟨rfl, rfl, rfl⟩⟩

/-- The advance never changes the run's operands (R103). -/
theorem advance_operands (r : TriRegs) :
    r.advance.chan = r.chan ∧ r.advance.delay = r.delay ∧ r.advance.forever = r.forever := by
  rw [TriRegs.advance]
  cases r.phase
  · exact ⟨rfl, rfl, rfl⟩
  · dsimp only; split <;> exact ⟨rfl, rfl, rfl⟩
  · dsimp only; split_ifs <;> exact ⟨rfl, rfl, rfl⟩

/-- The five transitions of the sequencer (R114), as equations between registers. -/
theorem advance_cases (r : TriRegs) (h : r.phase ≠ .idle) :
    (r.phase = .up ∧ r.sample.toNat < 4095 ∧ r.advance = { r with sample := r.sample + 1#12 }) ∨
    (r.phase = .up ∧ r.sample = 4095#12 ∧ r.advance = { r with phase := .down }) ∨
    (r.phase = .down ∧ 0 < r.sample.toNat ∧ r.advance = { r with sample := r.sample - 1#12 }) ∨
    (r.phase = .down ∧ r.sample = 0#12 ∧ r.forever = true ∧ r.advance = { r with phase := .up }) ∨
    (r.phase = .down ∧ r.sample = 0#12 ∧ r.forever = false ∧ 1 < r.left ∧
      r.advance = { r with left := r.left - 1, phase := .up }) ∨
    (r.phase = .down ∧ r.sample = 0#12 ∧ r.forever = false ∧ r.left ≤ 1 ∧
      r.advance = { r with left := 0, phase := .idle, returned := true }) := by
  have hs := r.sample.isLt
  cases hp : r.phase with
  | idle => exact absurd hp h
  | up =>
    by_cases h1 : r.sample < 4095#12
    · exact Or.inl ⟨rfl, by simpa [BitVec.lt_def] using h1, by simp [TriRegs.advance, hp, h1]⟩
    · refine Or.inr (Or.inl ⟨rfl, BitVec.eq_of_toNat_eq ?_, by simp [TriRegs.advance, hp, h1]⟩)
      rw [BitVec.lt_def] at h1
      simp only [BitVec.toNat_ofNat] at h1 ⊢
      omega
  | down =>
    by_cases h1 : 0#12 < r.sample
    · exact Or.inr (Or.inr (Or.inl ⟨rfl, by simpa [BitVec.lt_def] using h1, by simp [TriRegs.advance, hp, h1]⟩))
    · have h0 : r.sample = 0#12 := by
        apply BitVec.eq_of_toNat_eq
        rw [BitVec.lt_def] at h1
        simp only [BitVec.toNat_ofNat] at h1 ⊢
        omega
      cases hf : r.forever with
      | true => simp [TriRegs.advance, hp, h0, hf]
      | false =>
        by_cases h2 : 1 < r.left
        · simp [TriRegs.advance, hp, h0, hf, h2]
        · have h3 : r.left ≤ 1 := by omega
          simp [TriRegs.advance, hp, h0, hf, h2, h3]

/-- Every instruction runs. -/
theorem exec_next (i : Instr) (s : State) : ∃ t, exec i s = .next t := by
  cases i <;> exact ⟨_, rfl⟩

/-- The slot format's instruction that a word is. -/
theorem exec_decodeSlot (v : Word32) (s : State) :
    exec (decodeSlot v) s = execSlot (v.extractLsb' 24 8) (v.extractLsb' 12 12) (v.extractLsb' 0 12) s := rfl

/-- The step of an arbitrary run, both ways it can go. -/
theorem arbStep_spec (s : State) :
    (s.cfg.arbLen = 0 ∧ s.arbStep = .next s) ∨
    (s.cfg.arbLen ≠ 0 ∧ ∃ v d, s.arbStep = .next
        { s with
          draws := d
          trace := s.trace ++ [.slotRd s.arbIndex v,
            .tx (waveEncode s.op.chan (v.extractLsb' 12 12) s.cfg.opcArb s.cfg.tagArb),
            .tx (waveEncode s.op.chan (v.extractLsb' 0 12) s.cfg.opcArb s.cfg.tagArb)]
          fb := waveEncode s.op.chan (v.extractLsb' 0 12) s.cfg.opcArb s.cfg.tagArb
          arbIndex := (s.arbIndex + 1) % s.cfg.arbLen } ∧
      (s.slotStored s.arbIndex = some v ∧ d = s.draws ∨
        s.slotStored s.arbIndex = none ∧ v = Config.slotDraw s.draws ∧ d = s.draws + 1)) := by
  by_cases h : s.cfg.arbLen = 0
  · exact Or.inl ⟨h, by rw [State.arbStep, if_pos h]⟩
  · obtain ⟨v, d, hr, hv⟩ := slotRead_spec s.arbIndex s
    refine Or.inr ⟨h, v, d, ?_, hv⟩
    rw [State.arbStep, if_neg h, hr]
    simp [exec, decodeSlot, execSlot, State.nextSlot, State.sendFrame, State.encodeFrame, State.transfer, State.emit]

/-- The step while a command is carried out always answers. -/
theorem runStep_next (s : State) : ∃ t, s.runStep = .next t := by
  rw [State.runStep]
  cases s.op.mode
  · exact ⟨_, rfl⟩
  · exact ⟨_, rfl⟩
  · dsimp only; split <;> exact ⟨_, rfl⟩
  · rcases arbStep_spec s with ⟨-, h⟩ | ⟨-, v, d, h, -⟩ <;> exact ⟨_, h⟩

/-- The block always has an enabled step (R145). -/
theorem blockStep_next (s : State) : ∃ t, blockStep s = .next t := by
  rw [blockStep]
  cases s.boot with
  | opening => exact ⟨_, rfl⟩
  | configuring => exact ⟨_, rfl⟩
  | sending l => exact ⟨_, rfl⟩
  | done =>
    dsimp only
    split
    · cases s.dispState
      · exact exec_next _ s
      · exact runStep_next s
    · exact ⟨_, rfl⟩

/-- With nothing on the agenda the system's step is the block's. -/
theorem step_of_agenda_nil {s : State} (hw : s.cfg.wf = true) (ha : s.agenda = []) : step s = blockStep s := by
  rw [step, if_pos hw, ha]

/-- With a move on the agenda the system's step is that move. -/
theorem step_of_agenda_cons {s : State} {m : Move} {rest : List Move} (hw : s.cfg.wf = true) (ha : s.agenda = m :: rest) :
    step s = applyMove m { s with agenda := rest } := by
  rw [step, if_pos hw, ha]

/-- Past boot, a polling block executes the word it reads. -/
theorem blockStep_polling {s : State} (hb : s.boot = .done) (hf : s.cfg.frontEnd = true) (hd : s.dispState = .polling) :
    blockStep s = exec (decodeCommand s.cmdreg) s := by
  rw [blockStep, hb, hd]
  dsimp only
  rw [if_pos hf, cmdRead_eq]

/-- Past boot, a running block takes a step of its generator. -/
theorem blockStep_running {s : State} (hb : s.boot = .done) (hf : s.cfg.frontEnd = true) (hd : s.dispState = .running) :
    blockStep s = s.runStep := by
  rw [blockStep, hb, hd]
  dsimp only
  rw [if_pos hf]

/-- Past boot, the core alone takes a step of its sequencer. -/
theorem blockStep_core {s : State} (hb : s.boot = .done) (hf : s.cfg.frontEnd = false) :
    blockStep s = .next s.coreStep := by
  rw [blockStep, hb]
  dsimp only
  rw [hf]; rfl

/-- Before the first event a host write inside a step is in the register when the step begins. -/
theorem hostWriteIn_zero (w : Word32) (s : State) : s.hostWriteIn 0 w = blockStep { s with cmdreg := w } := rfl

/-- After the first event it is the step that would have been taken anyway, with the word left in the register or erased. -/
theorem hostWriteIn_spec {k : Nat} (hk : k ≠ 0) (w : Word32) (s : State) :
    ∃ t, blockStep s = .next t ∧ s.hostWriteIn k w = .next (s.overwrittenAfter k w t) := by
  obtain ⟨t, h⟩ := blockStep_next s
  exact ⟨t, h, by rw [State.hostWriteIn, if_neg hk, h]⟩

/-- The events of a step that appended `evs` to the trace are `evs`. -/
theorem eventsOfStep_append {s t : State} {evs : List Event} (h : t.trace = s.trace ++ evs) : s.eventsOfStep t = evs := by
  rw [State.eventsOfStep, h, List.drop_left]

/-- The reset inside a step, with the step it cuts. -/
theorem resetDuring_spec (r : ResetMove) (s : State) :
    ∃ t, blockStep s = .next t ∧ s.resetDuring r = (s.cutAfter r.afterEvents t).envReset r := by
  obtain ⟨t, h⟩ := blockStep_next s
  exact ⟨t, h, by rw [State.resetDuring, h]⟩

end Sys2Proof.Laws
end

