-- ==== Sys2Proof/Laws/PerInstr.lean ====
section
/-!
SUPPORT. The per-instruction family TableRow: the word of an instruction selects the instruction's own row of the opcode
table.
-/
namespace Sys2Proof.Laws.TableRow

/-- The encoded word has the row's fixed bits: `word & mask = match` (R55). -/
def Statement (i : Instr) : Prop := i.row.selects (encode i) = true

/-- A word whose number leaves the remainder `p` under `2^n` has `p` under the mask of its low `n` bits. -/
theorem selects_low (w : Word32) (n p : Nat) (hn : n < 32) (h : w.toNat % 2 ^ n = p) :
    OpRow.selects ⟨BitVec.ofNat 32 (2 ^ n - 1), BitVec.ofNat 32 p⟩ w = true := by
  rw [OpRow.selects, beq_iff_eq]
  apply BitVec.eq_of_toNat_eq
  have hp : p < 2 ^ 32 := h ▸ Nat.lt_of_le_of_lt (Nat.mod_le _ _) w.isLt
  rw [and_lowMask_toNat w n hn, h, BitVec.toNat_ofNat, Nat.mod_eq_of_lt hp]

theorem idle (rest : BitVec 31) : Statement (.idle rest) :=
  selects_low _ 1 0 (by decide) (by rw [encode_idle_toNat]; omega)

theorem nop (vd : BitVec 12) (chan : Chan) (cyc : BitVec 8) (rsvd : BitVec 4) : Statement (.nop vd chan cyc rsvd) :=
  selects_low _ 4 1 (by decide) (by rw [encode_nop_toNat]; omega)

theorem fixed (val : Sample) (chan : Chan) (cyc : BitVec 8) (rsvd : BitVec 4) (m3 m2 : BitVec 1) :
    Statement (.fixed val chan cyc rsvd m3 m2) :=
  selects_low _ 2 3 (by decide) (by rw [encode_fixed_toNat]; omega)

theorem tri (vd : BitVec 12) (chan : Chan) (cyc : BitVec 8) (rsvd : BitVec 4) (m3 : BitVec 1) :
    Statement (.tri vd chan cyc rsvd m3) :=
  selects_low _ 3 5 (by decide) (by rw [encode_tri_toNat]; omega)

theorem arb (vd : BitVec 12) (chan : Chan) (cyc : BitVec 8) (rsvd : BitVec 4) : Statement (.arb vd chan cyc rsvd) :=
  selects_low _ 4 9 (by decide) (by rw [encode_arb_toNat]; omega)

theorem encode (opcode : Byte) (chan : Chan) (samp : Sample) (tag : Byte) : Statement (.encode opcode chan samp tag) :=
  selects_low _ 0 0 (by decide) (Nat.mod_one _)

theorem frameDacUpdate (chan : Chan) (samp : Sample) : Statement (.frameDacUpdate chan samp) := by
  rw [Statement, OpRow.selects, Instr.row, beq_iff_eq]
  apply BitVec.eq_of_getLsbD_eq
  intro j hj
  rw [BitVec.getLsbD_and, getLsbD_eq_decide (Sys2Proof.encode _), encode_frameDacUpdate_toNat]
  have := chan.isLt
  have := samp.isLt
  interval_cases j <;>
    simp only [Nat.reducePow, BitVec.reduceGetLsb, Bool.and_true, Bool.and_false, decide_eq_true_eq,
      decide_eq_false_iff_not] <;> omega

theorem slot (ignored : Byte) (high low : Sample) : Statement (.slot ignored high low) :=
  selects_low _ 0 0 (by decide) (Nat.mod_one _)

end Sys2Proof.Laws.TableRow
end

