-- ==== Sys2Proof/Laws/Run.lean ====
section
/-!
SUPPORT. Runs of several steps: one step and then the rest, runs one after the other, and the induction over a run packaged
once.
-/
namespace Sys2Proof.Laws

open Sys2Proof.Machine Sys2Proof.Safety

@[simp] theorem runFor_zero (s : State) : runFor 0 s = .next s := rfl

theorem runFor_succ {s t : State} (n : Nat) (h : step s = .next t) : runFor (n + 1) s = runFor n t := by
  rw [runFor, h]

/-- A run of `m` steps and then one of `n`. -/
theorem runFor_add {s t : State} (m n : Nat) (h : runFor m s = .next t) : runFor (m + n) s = runFor n t := by
  induction m generalizing s with
  | zero => rw [Nat.zero_add]; cases h; rfl
  | succ m ih =>
    rw [runFor] at h
    rw [Nat.add_right_comm]
    cases hu : step s with
    | next u =>
      rw [hu] at h
      rw [runFor_succ (m + n) hu]
      exact ih h
    | fault r => rw [hu] at h; cases h
    | refused r => rw [hu] at h; cases h

/-- A run of `n` steps and then one more. -/
theorem runFor_snoc {s t u : State} {n : Nat} (h : runFor n s = .next t) (hu : step t = .next u) :
    runFor (n + 1) s = .next u := by
  rw [runFor_add n 1 h, runFor_succ 0 hu, runFor_zero]

/-- The induction over a run: if `P 0` holds at the start and every step from `P k` answers a state with `P (k + 1)`, then a
run of any number of steps answers and ends where `P` says. -/
theorem runFor_induction (P : Nat → State → Prop) {s : State} (n : Nat) (h0 : P 0 s)
    (hstep : ∀ k < n, ∀ t, P k t → ∃ u, step t = .next u ∧ P (k + 1) u) :
    ∃ t, runFor n s = .next t ∧ P n t := by
  induction n with
  | zero => exact ⟨s, rfl, h0⟩
  | succ n ih =>
    obtain ⟨t, ht, hP⟩ := ih fun k hk => hstep k (by omega)
    obtain ⟨u, hu, hPu⟩ := hstep n (by omega) t hP
    exact ⟨u, runFor_snoc ht hu, hPu⟩

end Sys2Proof.Laws
end

