-- ==== Sys2Proof/Tests/Slice0.lean ====
section
/-!
SUPPORT. Tests: the spec's own vectors (sections 2 to 7 of the test-vector file, the encoding tables), the checks of
WellFormed, one-step runs on small states, and for every obligation that has hypotheses a state that meets them together.
Every expected value is copied from spec/ or computed by hand from its rules.
-/
namespace Sys2Proof.Tests

open Sys2Proof.Machine Sys2Proof.Safety

/-! ## Helpers -/

/-- A view of the state a step answers. -/
def after {α : Type} (r : Result) (f : State → α) : Option α :=
  match r with
  | .next t => some (f t)
  | .fault _ => none
  | .refused _ => none

/-- Why a step answers no state. -/
def refusal (r : Result) : Option Refusal :=
  match r with
  | .next _ => none
  | .fault _ => none
  | .refused e => some e

/-- The machine with its default parameters about to poll `w`. -/
def ready (w : Word32) : State := State.reset.withFetchWord 32 w.toNat

/-- A triangle run of the dispatcher with these sequencer registers, dispatched by `TRI 2, 2, 5`. -/
def triRun (r : TriRegs) : State :=
  { ready 0x00520205#32 with dispState := .running, op := latchesOf 0x00520205#32, tri := r }

/-- The registers of that run at a position; IDLE is after its return. -/
def triAt (phase : Phase) (samp : Sample) (left : Nat) : TriRegs :=
  { phase := phase, sample := samp, left := left, forever := false, chan := 2#4, delay := 5, returned := phase == .idle }

/-- An arbitrary run on channel 3 at slot `i`, in a buffer of two slots with the words of vector AR2. -/
def arbRun (i : Nat) : State :=
  { ready 0x00030009#32 with
    dispState := .running
    op := latchesOf 0x00030009#32
    arbIndex := i
    mem := Memory.writeWord (Memory.writeWord [] 4100 0xFF000FFF#32) 4096 0x00123456#32 }

/-- An arbitrary run with an empty buffer (vector AR3). -/
def emptyArbRun : State :=
  { arbRun 0 with cfg := { Config.defaultParams with arbLen := 0 }, op := latchesOf 0x00050009#32, mem := [] }

/-- The core alone, past boot. -/
def core : State :=
  { State.resetWith { Config.defaultParams with frontEnd := false } with boot := .done, devHandle := .configured }

/-- The same machine with these moves to come. -/
def doing (s : State) (ms : List Move) : State := { s with agenda := ms }

/-- A reset between two steps that keeps the command register. -/
def plainReset : ResetMove := { afterEvents := 0, rewritesCmd := false, losesBuffer := false }

/-- Two start-up frames. -/
def bootParams : Params := { Config.defaultParams with initFrames := [⟨1#8, 2#8, 3#8, 0#8⟩, ⟨4#8, 5#8, 6#8, 1#8⟩] }

/-! ## Encodings: CW vectors, EN vectors and S5, field by field from the tables -/

/-- CW2. -/
theorem test_decode_idle : decodeCommand 0b11111111111111111111111111111110#32 = .idle 0x7FFFFFFF#31 := by decide
/-- CW5. -/
theorem test_decode_nop : decodeCommand 0b11111111111111111111111111110001#32 = .nop 4095#12 15#4 255#8 15#4 := by decide
/-- CW7, and CW11 for the priority. -/
theorem test_decode_fixed :
    decodeCommand 0b10000000000011110000000000000011#32 = .fixed 2048#12 15#4 0#8 0#4 0#1 0#1 ∧
      decodeCommand 0x0000000F#32 = .fixed 0#12 0#4 0#8 0#4 1#1 1#1 := by decide
/-- CW16, and CW19 for the priority. -/
theorem test_decode_tri :
    decodeCommand 0b00000000010100010000001000000101#32 = .tri 5#12 1#4 2#8 0#4 0#1 ∧
      decodeCommand 0x0000000D#32 = .tri 0#12 0#4 0#8 0#4 1#1 := by decide
/-- CW21 and CW22. -/
theorem test_decode_arb :
    decodeCommand 0b00000000000000110001001000001001#32 = .arb 0#12 3#4 18#8 0#4 ∧
      decodeCommand 0x00130009#32 = .arb 1#12 3#4 0#8 0#4 := by decide
/-- EN12. -/
theorem test_decode_frame : decodeFrame 0b10101011001101000101011000000001#32 = .encode 0xAB#8 3#4 0x456#12 0x01#8 := by
  decide
/-- EN11, and EN12's frame is of another class. -/
theorem test_decode_dac_update :
    decodeDacUpdate 0b00000011011110101011110001010101#32 = .ok (.frameDacUpdate 7#4 0xABC#12) ∧
      decodeDacUpdate 0xAB345601#32 = .error .notDacUpdate := ⟨rfl, rfl⟩
/-- S5, with bits 31:24 set. -/
theorem test_decode_slot : decodeSlot 0b11111111000100100011010001010110#32 = .slot 0xFF#8 0x123#12 0x456#12 := by decide
/-- The words of programs and vectors in assembler notation (CW15, CW17, FX5, CW21). -/
theorem test_assemble :
    assemble (.tri 2#4 1#8 0#12) = 0x00020105#32 ∧ assemble (.tri 3#4 3#8 1000#12) = 0x3E830305#32 ∧
      assemble (.fixed 0#4 4095#12) = 0xFFF00003#32 ∧ assemble (.arb 3#4 0x12#8) = 0x00031209#32 := by decide
/-- EN4, EN6, EN14: the nibble that byte 1 shares. -/
theorem test_wave_encode :
    waveEncode 5#4 0x800#12 0x03#8 0x55#8 = ⟨0x03#8, 0x58#8, 0x00#8, 0x55#8⟩ ∧
      waveEncode 1#4 0x100#12 0x03#8 0x55#8 = ⟨0x03#8, 0x11#8, 0x00#8, 0x55#8⟩ ∧
      waveEncode 15#4 0x000#12 0xFF#8 0xFF#8 = ⟨0xFF#8, 0xF0#8, 0x00#8, 0xFF#8⟩ := by decide
/-- CW13, CW17, CW18: the delay forms. -/
theorem test_delay_forms : delayOf 0#12 = 1000 ∧ delayOf 1000#12 = 1000 ∧ delayOf 1#12 = 1 ∧ delayOf 4095#12 = 4095 := by
  decide
/-- The host's question about a table row: a word above 32 bits is no instruction. -/
theorem test_table_word :
    decodeTableWord 32 0x00000009 = some (.arb 0#12 0#4 0#8 0#4) ∧ decodeTableWord 32 0x100000000 = none ∧
      decodeTableWord 40 9 = none := by decide

/-! ## WellFormed: each check refuses an ill-formed term -/

/-- R34: a misaligned register address, a misaligned buffer, a register inside the buffer (its first and its last byte);
the register just before and just behind the buffer is allowed, and so is an empty buffer. -/
theorem test_params_wf :
    Params.wf { Config.defaultParams with cmdAddr := 2 } = false ∧
      Params.wf { Config.defaultParams with wbBase := 4097 } = false ∧
      Params.wf { Config.defaultParams with cmdAddr := 4096 } = false ∧
      Params.wf { Config.defaultParams with cmdAddr := 4100 } = false ∧
      Params.wf { Config.defaultParams with cmdAddr := 4092 } = true ∧
      Params.wf { Config.defaultParams with cmdAddr := 4104 } = true ∧
      Params.wf { Config.defaultParams with cmdAddr := 4096, arbLen := 0 } = true ∧
      Params.wf Config.defaultParams = true := by decide
/-- R62: what the assembler does not write is not canonical. -/
theorem test_canonical :
    Instr.canonical (.idle 0#31) = false ∧ Instr.canonical (.nop 1#12 0#4 0#8 0#4) = false ∧
      Instr.canonical (.fixed 5#12 1#4 1#8 0#4 0#1 0#1) = false ∧ Instr.canonical (.fixed 5#12 1#4 0#8 0#4 0#1 1#1) = false ∧
      Instr.canonical (.tri 5#12 1#4 1#8 0#4 1#1) = false ∧ Instr.canonical (.arb 1#12 1#4 1#8 0#4) = false ∧
      Instr.canonical (.arb 0#12 1#4 1#8 8#4) = false ∧ Instr.canonical (.slot 0#8 0#12 0#12) = false ∧
      Instr.canonical (.tri 5#12 1#4 2#8 0#4 0#1) = true := by decide
/-- The canonical form of the memory: two cells out of order, or at one address, are not in it. -/
theorem test_memory_wf :
    Memory.wf [(4, 1#8), (3, 2#8)] = false ∧ Memory.wf [(4, 1#8), (4, 2#8)] = false ∧
      Memory.wf State.reset.mem = true ∧ Memory.wf (arbRun 0).mem = true := by decide
/-- R34 at the step. -/
theorem test_illegal_config_refused :
    refusal (step { ready 3#32 with cfg := { Config.defaultParams with cmdAddr := 2 } }) = some .illegalConfig := by decide
/-- P7: the machine with a front end has no start port, and the core alone no command register. -/
theorem test_no_such_move_refused :
    refusal (step (doing (ready 0#32) [.triStart 0#4 1 0])) = some .noSuchMove ∧
      refusal (step (doing core [.hostWrite 3#32])) = some .noSuchMove ∧
      refusal (step (doing (ready 0#32) [.slotWrite 2 0#32])) = some .noSuchMove := by decide

/-! ## One step -/

/-- CW3 and S7a: a poll that sees `busy = 0`. -/
theorem test_idle_step : step (ready 0x00100002#32) = .next (ready 0x00100002#32) := rfl
/-- S11. -/
theorem test_nop_step :
    after (step (ready 0x00000001#32)) (fun t => (t.trace, t.cmdreg, t.dispState)) =
      some ([.poll 0x00000001#32, .clear], 0#32, .polling) := by decide
/-- FX2. -/
theorem test_fixed_step :
    after (step (ready 0x800F0003#32)) (fun t => (t.trace, t.cmdreg)) =
      some ([.poll 0x800F0003#32, .tx ⟨0x03#8, 0xF8#8, 0x00#8, 0x55#8⟩, .clear], 0#32) := by decide
/-- FX4: every other flag and bits 7:4 set. -/
theorem test_fixed_ignores_fields :
    after (step (ready 0xABC712FF#32)) (fun t => (t.trace, t.op.mode)) =
      some ([.poll 0xABC712FF#32, .tx ⟨0x03#8, 0x7A#8, 0xBC#8, 0x55#8⟩, .clear], .fixed) := by decide
/-- CW16: the start sends nothing and leaves the word in the register. -/
theorem test_tri_start :
    after (step (ready 0x00510205#32)) (fun t => (t.tri, t.trace, t.cmdreg)) =
      some ({ phase := .up, sample := 0#12, left := 2, forever := false, chan := 1#4, delay := 5, returned := false },
        [.poll 0x00510205#32], 0x00510205#32) := by decide
/-- CW13: forever, with the default delay. -/
theorem test_tri_start_forever :
    after (step (ready 0x00000005#32)) (fun t => (t.tri.forever, t.tri.delay)) = some (true, 1000) := by decide
/-- TR4 to TR5 in kind: an ascending step in the middle of a sweep, with its frame and its pause. -/
theorem test_tri_step_up :
    after (step (triRun (triAt .up 0x0FF#12 2))) (fun t => (t.trace, t.tri)) =
      some ([.tx ⟨0x03#8, 0x20#8, 0xFF#8, 0x55#8⟩, .wait 5], triAt .up 0x100#12 2) := by decide
/-- TR6 and TR7 (TR31, TR32): the top is sent, and stays for the descending sweep. -/
theorem test_tri_turn_at_top :
    after (step (triRun (triAt .up 4095#12 2))) (fun t => (t.fb, t.tri)) =
      some (⟨0x03#8, 0x2F#8, 0xFF#8, 0x55#8⟩, triAt .down 4095#12 2) := by decide
/-- TR10 and TR11 (TR33, TR34): the bottom is sent, one cycle fewer is left, and 0 is sent again. -/
theorem test_tri_turn_at_bottom :
    after (step (triRun (triAt .down 0#12 2))) (fun t => (t.fb, t.tri)) =
      some (⟨0x03#8, 0x20#8, 0x00#8, 0x55#8⟩, triAt .up 0#12 1) := by decide
/-- TR35 and TR36: the last frame of the last cycle; the clear is not yet made. -/
theorem test_tri_last_frame :
    after (step (triRun (triAt .down 0#12 1))) (fun t => (t.trace, t.tri, t.dispState)) =
      some ([.tx ⟨0x03#8, 0x20#8, 0x00#8, 0x55#8⟩, .wait 5], triAt .idle 0#12 0, .running) := by decide
/-- R78: after the run has returned, the clear alone. -/
theorem test_tri_clear :
    after (step (triRun (triAt .idle 0#12 0))) (fun t => (t.trace, t.cmdreg, t.dispState)) =
      some ([.clear], 0#32, .polling) := by decide
/-- TR23: the core's port with delay 0: no pause. -/
theorem test_core_start_and_step :
    after (step (doing core [.triStart 3#4 3 0])) (fun t => (t.tri, t.trace)) =
        some (TriRegs.started 3#4 3 0, []) ∧
      after (step { core with tri := TriRegs.started 3#4 3 0 }) (fun t => t.trace) =
        some [.tx ⟨0x03#8, 0x30#8, 0x00#8, 0x55#8⟩] := by decide
/-- R108: a second start while a run is in progress is not honoured. -/
theorem test_core_start_while_running :
    after (step (doing { core with tri := TriRegs.started 3#4 3 0 } [.triStart 1#4 9 9])) (fun t => t.tri) =
      some (TriRegs.started 3#4 3 0) := by decide
/-- EN3 at the core's encoder ports: the frame, and no event. -/
theorem test_core_encoder_port :
    after (step (doing core [.encPort 0x03#8 10#4 0x123#12 0x55#8])) (fun t => (t.fb, t.trace)) =
      some (⟨0x03#8, 0xA1#8, 0x23#8, 0x55#8⟩, []) := by decide
/-- EN11 as a DAC-update frame. -/
theorem test_dac_update :
    after (exec (.frameDacUpdate 7#4 0xABC#12) core) (fun t => t.trace) =
      some [.tx ⟨0x03#8, 0x7A#8, 0xBC#8, 0x55#8⟩] := by decide
/-- CW21: the start of an arbitrary run. -/
theorem test_arb_start :
    after (step { ready 0x00031209#32 with arbIndex := 1 }) (fun t => (t.arbIndex, t.op.chan, t.trace)) =
      some (0, 3#4, [.poll 0x00031209#32]) := by decide
/-- AR2, slot 0. -/
theorem test_arb_slot_zero :
    after (step (arbRun 0)) (fun t => (t.trace, t.arbIndex)) =
      some ([.slotRd 0 0x00123456#32, .tx ⟨0x03#8, 0x31#8, 0x23#8, 0x55#8⟩, .tx ⟨0x03#8, 0x34#8, 0x56#8, 0x55#8⟩], 1) := by
  decide
/-- AR2, slot 1: bits 31:24 ignored, and the index wraps to 0. -/
theorem test_arb_slot_one_wraps :
    after (step (arbRun 1)) (fun t => (t.trace, t.arbIndex)) =
      some ([.slotRd 1 0xFF000FFF#32, .tx ⟨0x03#8, 0x30#8, 0x00#8, 0x55#8⟩, .tx ⟨0x03#8, 0x3F#8, 0xFF#8, 0x55#8⟩], 0) := by
  decide
/-- A slot in flight reads as a free value: the read is counted, and only the value is open (R43). -/
theorem test_arb_slot_in_flight :
    after (step { arbRun 0 with inFlight := [0] }) (fun t => (t.draws, t.arbIndex)) = some (1, 1) := by decide
/-- AR3. -/
theorem test_arb_empty_buffer : step emptyArbRun = .next emptyArbRun := rfl
/-- R152: the first start-up frame goes to the transport as it stands. -/
theorem test_boot_frame :
    after (step { State.resetWith bootParams with boot := .sending bootParams.initFrames }) (fun t => (t.trace, t.fb)) =
      some ([.tx ⟨1#8, 2#8, 3#8, 0#8⟩], ⟨1#8, 2#8, 3#8, 0#8⟩) := by decide
/-- DP1: a host that breaks R41 during a triangle; the completing clear erases its word. -/
theorem test_undisciplined_host :
    after (runFor 2 (doing (triRun (triAt .idle 0#12 0)) [.hostWrite 0x800F0003#32])) (fun t => (t.cmdreg, t.trace)) =
      some (0#32, [.clear]) := by decide
/-- R155 in a fixed dispatch: a word written after the frame and before the clear is erased and never run. -/
theorem test_host_write_before_clear :
    after (step (doing (ready 0x800F0003#32) [.hostWriteIn 2 0x00000005#32])) (fun t => (t.cmdreg, t.trace, t.op.mode)) =
      some (0#32, [.poll 0x800F0003#32, .tx ⟨0x03#8, 0xF8#8, 0x00#8, 0x55#8⟩, .clear], .fixed) := by decide
/-- R132, the other order: the word written just after the clear stays. -/
theorem test_host_write_after_clear :
    after (step (doing (ready 0x800F0003#32) [.hostWriteIn 3 0x00000005#32])) (fun t => t.cmdreg) = some 0x00000005#32 := by
  decide
/-- R47: the word written before the poll is the one the poll reads. -/
theorem test_host_write_before_poll :
    after (step (doing (ready 0#32) [.hostWriteIn 0 0x00000001#32])) (fun t => t.trace) =
      some [.poll 0x00000001#32, .clear] := by decide
/-- R108: `tri_done` before any run, after a return, and after the next start. -/
theorem test_tri_done :
    core.triDone = false ∧
      after (step { core with tri := triAt .down 0#12 1 }) State.triDone = some true ∧
      after (step (doing { core with tri := triAt .idle 0#12 0 } [.triStart 2#4 1 0])) State.triDone = some false := by decide
/-- A reset inside a fixed dispatch, after its frame and before its clear: the word is still there (R150, R151). -/
theorem test_reset_before_clear :
    after (step (doing (ready 0x800F0003#32) [.reset { plainReset with afterEvents := 2 }]))
        (fun t => (t.trace, t.cmdreg, t.boot)) =
      some ([.poll 0x800F0003#32, .tx ⟨0x03#8, 0xF8#8, 0x00#8, 0x55#8⟩], 0x800F0003#32, .opening) := by decide
/-- The same reset after the clear: the register was cleared by the operation that completed. -/
theorem test_reset_after_clear :
    after (step (doing (ready 0x800F0003#32) [.reset { plainReset with afterEvents := 3 }])) (fun t => t.cmdreg) =
      some 0#32 := by decide

/-! ## Witnesses: a state that meets all the hypotheses of each obligation that has some -/

theorem test_meets_DecodeInvertsEncode : Instr.wf (.tri 5#12 1#4 2#8 0#4 0#1) = true := by decide
theorem test_meets_EncodeInvertsDecode : decodeDacUpdate 0x03A12355#32 = .ok (.frameDacUpdate 10#4 0x123#12) := rfl
theorem test_meets_OperationMapSelectsOneRow :
    (⟨0x00000007#32, 0x00000005#32⟩ : OpRow) ∈ operationMap ∧
      OpRow.selects ⟨0x00000007#32, 0x00000005#32⟩ 0x0000000D#32 = true := by decide
/-- AcceptedModeFollowsPriority, and one word for each clause at the clauses' borders. -/
theorem test_meets_AcceptedModeFollowsPriority :
    (Ready (ready 0x0000000F#32) ∧ (ready 0x0000000F#32).busy = true) ∧
      modeOf 0x0000000F#32 = .fixed ∧ modeOf 0x0000000D#32 = .triangle ∧ modeOf 0x00000009#32 = .arbitrary ∧
      modeOf 0xFFFFFFF1#32 = .noop := by decide
theorem test_meets_OperandsAreLatchedOnce :
    (Ready (ready 0xFFF0FF05#32) ∧ (ready 0xFFF0FF05#32).busy = true) ∧
      (Alone (triRun (triAt .idle 0#12 0)) ∧ (triRun (triAt .idle 0#12 0)).dispState = .running) := by decide
/-- RawDelayZeroMeansDefault, at raw 0 and at the largest raw value. -/
theorem test_meets_RawDelayZeroMeansDefault :
    (Ready (ready 0x00000005#32) ∧ (ready 0x00000005#32).cmdreg &&& 0x7#32 = 0x5#32) ∧
      (Ready (ready 0xFFF0FF0D#32) ∧ (ready 0xFFF0FF0D#32).cmdreg &&& 0x7#32 = 0x5#32) := by decide
theorem test_meets_AssembledCommandsDecode : Instr.canonical (.arb 0#12 3#4 18#8 0#4) = true := by decide
theorem test_meets_UnnamedBitsAreIgnored :
    Ready (ready 0#32) ∧ 0xABC712F3#32 &&& 0xFFFFFF0F#32 = 0xABC71203#32 &&& 0xFFFFFF0F#32 ∧
      0xABC712F3#32 ≠ 0xABC71203#32 := by decide
theorem test_meets_InstructionsKeepTheRest :
    ∃ t, exec (.fixed 5#12 1#4 0#8 0#4 0#1 0#1) (arbRun 0) = .next t := ⟨_, rfl⟩
theorem test_meets_StepRunsDecodedCommand : Ready (ready 0x00510205#32) := by decide
theorem test_meets_StepRunsPlacedWord :
    Params.wf { State.reset.cfg with frontEnd := true } = true ∧
      decodeTableWord 32 0x00510205 = some (.tri 5#12 1#4 2#8 0#4 0#1) := by decide
theorem test_meets_StepRunsSlotAndPortInstructions :
    (InArbitrary (arbRun 1) ∧ (arbRun 1).cfg.arbLen ≠ 0) ∧
      core.cfg.wf = true ∧ core.cfg.frontEnd = false ∧
      (doing core [.encPort 3#8 1#4 2#12 4#8]).agenda = .encPort 3#8 1#4 2#12 4#8 :: [] := by decide
/-- PollWaitsForBusy: one word for each clause. -/
theorem test_meets_PollWaitsForBusy :
    (Ready (ready 0xFFFFFFFE#32) ∧ (ready 0xFFFFFFFE#32).cmdreg &&& 1#32 = 0#32) ∧
      (Ready (ready 0x00000001#32) ∧ (ready 0x00000001#32).cmdreg &&& 1#32 = 1#32) := by decide
theorem test_meets_NopDispatch :
    Ready (ready 0xFFFFFFF1#32) ∧ (ready 0xFFFFFFF1#32).cmdreg &&& 0xF#32 = 0x1#32 := by decide
theorem test_meets_FixedDispatch :
    Ready (ready 0x0000000F#32) ∧ (ready 0x0000000F#32).cmdreg &&& 0x3#32 = 0x3#32 := by decide
/-- StartLoadsSequencer: the dispatched start, and the port with and without a run in progress. -/
theorem test_meets_StartLoadsSequencer :
    (Ready (ready 0x0000000D#32) ∧ (ready 0x0000000D#32).cmdreg &&& 0x7#32 = 0x5#32) ∧
      core.cfg.wf = true ∧ core.cfg.frontEnd = false ∧
      (doing core [.triStart 3#4 3 0]).agenda = .triStart 3#4 3 0 :: [] ∧
      core.tri.phase = .idle ∧ (TriRegs.started 3#4 3 0).phase ≠ .idle := by decide
theorem test_meets_ArbDispatchKeepsChannel :
    (Ready (ready 0xFFF0FFF9#32) ∧ (ready 0xFFF0FFF9#32).cmdreg &&& 0xF#32 = 0x9#32) ∧ InArbitrary (arbRun 1) := by decide
/-- TriStepSendsAndAdvances and TurnsRepeatTheSample, with a state for each branch of the advance, in a dispatched run and in
the core alone. -/
theorem test_meets_TriStepSendsAndAdvances :
    (∀ r ∈ [triAt .up 0#12 2, triAt .up 4094#12 2, triAt .up 4095#12 2, triAt .down 4095#12 2, triAt .down 1#12 2,
        triAt .down 0#12 2, triAt .down 0#12 1, { triAt .down 0#12 0 with forever := true }],
      SequencerRuns (triRun r) ∧ (triRun r).tri.phase ≠ .idle) ∧
      SequencerRuns { core with tri := TriRegs.started 3#4 3 0 } := by decide
theorem test_meets_TurnsRepeatTheSample :
    (SequencerRuns (triRun (triAt .up 4095#12 2)) ∧ (triRun (triAt .up 4095#12 2)).tri.phase ≠ .idle) ∧
      (SequencerRuns (triRun (triAt .down 0#12 2)) ∧ (triRun (triAt .down 0#12 2)).tri.phase ≠ .idle ∧ 1 < 2) := by decide
/-- The invariant, part by part: in the middle of a triangle run, and in an arbitrary run with a full buffer. -/
theorem test_invariant_of_triangle_run : SystemInv (triRun (triAt .down 9#12 1)) :=
  ⟨by decide, by decide, by decide, ⟨by decide, fun _ _ => Or.inl ⟨rfl, by decide⟩, by decide⟩, by decide⟩
theorem test_invariant_of_arbitrary_run : SystemInv (arbRun 1) :=
  ⟨by decide, by decide, by decide, ⟨by decide, fun _ _ => Or.inr (by decide), by decide⟩, by decide⟩
theorem test_meets_EveryFrameIsFollowedByItsPause :
    (SequencerRuns (triRun (triAt .down 9#12 1)) ∧ (triRun (triAt .down 9#12 1)).tri.phase ≠ .idle ∧
      SystemInv (triRun (triAt .down 9#12 1)) ∧ InTriangle (triRun (triAt .down 9#12 1))) ∧
      (SequencerRuns { core with tri := TriRegs.started 3#4 3 0 } ∧ (TriRegs.started 3#4 3 0).phase ≠ .idle ∧
        (TriRegs.started 3#4 3 0).delay = 0) :=
  ⟨⟨by decide, by decide, test_invariant_of_triangle_run, by decide⟩, by decide⟩
/-- The statements about whole runs start here: a finite dispatched run, a run of the core with no delay, and a forever run. -/
theorem test_meets_ThreeDescriptionsAgree :
    (SequencerRuns (triRun (TriRegs.started 2#4 2 5)) ∧
      (triRun (TriRegs.started 2#4 2 5)).tri = TriRegs.started 2#4 2 5 ∧ 1 ≤ 2) ∧
      (SequencerRuns { core with tri := TriRegs.started 3#4 0 0 } ∧
        ({ core with tri := TriRegs.started 3#4 0 0 } : State).tri = TriRegs.started 3#4 0 0) := by decide
theorem test_meets_FiniteRunFrameCount :
    SequencerRuns { core with tri := TriRegs.started 3#4 1 0 } ∧
      ({ core with tri := TriRegs.started 3#4 1 0 } : State).tri = TriRegs.started 3#4 1 0 ∧ 1 ≤ 1 := by decide
theorem test_meets_FrameNumberDeterminesRegisters :
    SequencerRuns (triRun (TriRegs.started 2#4 2 5)) ∧
      (triRun (TriRegs.started 2#4 2 5)).tri = TriRegs.started 2#4 2 5 ∧ 16383 < 8192 * 2 := by decide
theorem test_meets_ForeverRunNeverReturns :
    InTriangle (triRun (TriRegs.started 2#4 0 1000)) ∧
      (triRun (TriRegs.started 2#4 0 1000)).tri = TriRegs.started 2#4 0 1000 := by decide
theorem test_meets_RunsWithSameOperandsAgree :
    SequencerRuns (triRun (TriRegs.started 2#4 2 5)) ∧ SequencerRuns { core with tri := TriRegs.started 2#4 2 5 } ∧
      (triRun (TriRegs.started 2#4 2 5)).tri = TriRegs.started 2#4 2 5 ∧
      ({ core with tri := TriRegs.started 2#4 2 5 } : State).tri = TriRegs.started 2#4 2 5 ∧
      (triRun (TriRegs.started 2#4 2 5)).cfg.opcTri = core.cfg.opcTri ∧
      (triRun (TriRegs.started 2#4 2 5)).cfg.tagTri = core.cfg.tagTri ∧ 8192 ≤ 8192 * 2 ∧
      (doing (triRun (TriRegs.started 2#4 2 5)) [.hostWrite 3#32]).agenda = .hostWrite 3#32 :: [] ∧
      (triRun (TriRegs.started 2#4 2 5)).cfg.wf = true ∧ (triRun (TriRegs.started 2#4 2 5)).cfg.frontEnd = true := by decide
/-- FiniteDispatchCompletes, with the longest finite triangle and with a no-op. -/
theorem test_meets_FiniteDispatchCompletes :
    (Ready (ready 0xFFF0FF05#32) ∧ (ready 0xFFF0FF05#32).busy = true ∧
      infiniteCommand (ready 0xFFF0FF05#32).cmdreg = false) ∧
      (Ready (ready 1#32) ∧ (ready 1#32).busy = true ∧ infiniteCommand (ready 1#32).cmdreg = false) := by decide
theorem test_meets_ReturnedRunIsCleared :
    InTriangle (triRun (triAt .idle 0#12 0)) ∧ (triRun (triAt .idle 0#12 0)).tri.phase = .idle := by decide
/-- InfiniteDispatchIsDeadEnd: both infinite commands, dead ends that step, and one that is reset. -/
theorem test_meets_InfiniteDispatchIsDeadEnd :
    (Ready (ready 0x00000005#32) ∧ infiniteCommand (ready 0x00000005#32).cmdreg = true) ∧
      (Ready (ready 0x00000009#32) ∧ infiniteCommand (ready 0x00000009#32).cmdreg = true) ∧
      (DeadEnd (doing (arbRun 0) [.hostWrite 3#32]) ∧
        noResetNext (doing (arbRun 0) [.hostWrite 3#32]) = true ∧
        after (step (doing (arbRun 0) [.hostWrite 3#32])) (fun t => t.cmdreg) = some 3#32) ∧
      (DeadEnd (arbRun 0) ∧ (arbRun 0).cfg.wf = true ∧ (arbRun 0).agenda = []) ∧
      (DeadEnd (doing (triRun (TriRegs.started 2#4 0 1000)) [.reset plainReset]) ∧
        (triRun (TriRegs.started 2#4 0 1000)).cfg.wf = true) := by decide
theorem test_meets_ArbStepPlaysOneSlot :
    InArbitrary (arbRun 1) ∧ (arbRun 1).cfg.arbLen ≠ 0 ∧ (arbRun 1).slotStored 1 = some 0xFF000FFF#32 := by decide
theorem test_meets_ArbRunPlaysSlotsInOrder :
    InArbitrary (arbRun 1) ∧ (arbRun 1).cfg.arbLen ≠ 0 ∧ (arbRun 1).arbIndex < (arbRun 1).cfg.arbLen ∧
      ∀ i, i < 2 → (arbRun 1).slotStored i = some (if i = 0 then 0x00123456#32 else 0xFF000FFF#32) := by decide
theorem test_meets_EmptyBufferRunsForever : InArbitrary emptyArbRun ∧ emptyArbRun.cfg.arbLen = 0 := by decide
/-- SlotsHoldWhatTheProducerWrote: a write that lands, one that begins, and a step that is neither. -/
theorem test_meets_SlotsHoldWhatTheProducerWrote :
    ((arbRun 0).cfg.wf = true ∧ (arbRun 0).hasSlot 1 = true ∧ ({ arbRun 0 with inFlight := [1, 0] } : State).inFlight.Nodup) ∧
      (doing (arbRun 0) [.slotWrite 1 7#32]).agenda = .slotWrite 1 7#32 :: [] ∧
      (doing (arbRun 0) [.slotBegin 1]).agenda = .slotBegin 1 :: [] ∧
      bufferQuietNext (arbRun 0) = true ∧ (arbRun 0).agenda = [] ∧
      after (step (arbRun 0)) (fun t => t.arbIndex) = some 1 := by decide
theorem test_meets_OnlyTheProducerWritesTheBuffer :
    bufferQuietNext (doing (arbRun 0) [.slotBegin 1]) = true ∧
      after (step (doing (arbRun 0) [.slotBegin 1])) (fun t => t.inFlight) = some [1] := by decide
theorem test_meets_BootRunsInOrder : Params.wf bootParams = true ∧ 4 < 3 + bootParams.initFrames.length := by decide
theorem test_meets_ResetAbandonsTheOperation :
    (doing (ready 0x800F0003#32) [.reset { plainReset with afterEvents := 2 }]).cfg.wf = true ∧
      (doing (ready 0x800F0003#32) [.reset plainReset]).agenda = .reset plainReset :: [] := by decide
/-- ResetAloneRestartsTheCommand, in the dead end of vector DP3. -/
theorem test_meets_ResetAloneRestartsTheCommand :
    (arbRun 0).cfg.wf = true ∧ (arbRun 0).cfg.frontEnd = true ∧
      (doing (arbRun 0) [.reset plainReset]).agenda = [.reset plainReset] ∧ plainReset.afterEvents = 0 ∧
      plainReset.rewritesCmd = false ∧ (doing (arbRun 0) [.reset plainReset]).busy = true := by decide
/-- HostWriteIsSeenByTheNextPoll: while polling and while running. -/
theorem test_meets_HostWriteIsSeenByTheNextPoll :
    (ready 0#32).cfg.wf = true ∧ (ready 0#32).cfg.frontEnd = true ∧ (ready 0#32).boot = .done ∧
      (doing (ready 0#32) [.hostWrite 3#32]).agenda = [.hostWrite 3#32] ∧ (ready 0#32).dispState = .polling ∧
      (arbRun 0).cfg.wf = true ∧ (arbRun 0).cfg.frontEnd = true ∧ (arbRun 0).boot = .done ∧
      (arbRun 0).dispState = .running := by decide
/-- HostWriteInsideAStepIsLostAtTheClear: a write before the poll, one inside a no-op and one inside a fixed dispatch at the
borders of being lost, and both orders at the clear of a returned triangle run. -/
theorem test_meets_HostWriteInsideAStepIsLostAtTheClear :
    ((ready 1#32).cfg.wf = true ∧ (ready 1#32).cfg.frontEnd = true ∧ (ready 1#32).boot = .done ∧
      (ready 1#32).dispState = .polling ∧ (ready 1#32).busy = true ∧ modeOf (ready 1#32).cmdreg = .noop ∧
      (doing (ready 1#32) [.hostWriteIn 0 5#32]).agenda = .hostWriteIn 0 5#32 :: [] ∧
      after (step (doing (ready 1#32) [.hostWriteIn 1 5#32])) (fun t => t.cmdreg) = some 0#32 ∧
      after (step (doing (ready 1#32) [.hostWriteIn 2 5#32])) (fun t => t.cmdreg) = some 5#32) ∧
      ((ready 3#32).busy = true ∧ modeOf (ready 3#32).cmdreg = .fixed) ∧
      ((triRun (triAt .idle 0#12 0)).cfg.wf = true ∧ (triRun (triAt .idle 0#12 0)).cfg.frontEnd = true ∧
        (triRun (triAt .idle 0#12 0)).boot = .done ∧ (triRun (triAt .idle 0#12 0)).dispState = .running ∧
        (triRun (triAt .idle 0#12 0)).op.mode = .triangle ∧ (triRun (triAt .idle 0#12 0)).tri.phase = .idle ∧
        after (step (doing (triRun (triAt .idle 0#12 0)) [.hostWriteIn 0 5#32])) (fun t => t.cmdreg) = some 0#32 ∧
        after (step (doing (triRun (triAt .idle 0#12 0)) [.hostWriteIn 1 5#32])) (fun t => t.cmdreg) = some 5#32) := by
  decide
/-- DonePortReportsTheReturn: a start, a last and another step of a run, and the core at rest before and after a run. -/
theorem test_meets_DonePortReportsTheReturn :
    (core.cfg.wf = true ∧ core.cfg.frontEnd = false ∧ core.tri.phase = .idle ∧
      (doing core [.triStart 3#4 3 0]).agenda = .triStart 3#4 3 0 :: []) ∧
      (∀ r ∈ [triAt .down 0#12 1, triAt .up 0#12 1],
        SequencerRuns (triRun r) ∧ (triRun r).tri.phase ≠ .idle ∧ (triRun r).triDone = false) ∧
      (∀ r ∈ [core.tri, triAt .idle 0#12 0],
        BareCore { core with tri := r } ∧ ({ core with tri := r } : State).tri.phase = .idle) := by decide
theorem test_meets_StepKeepsSystemInvariant :
    (SystemInv (triRun (triAt .down 9#12 1)) ∧
      after (step (triRun (triAt .down 9#12 1))) (fun t => t.tri.sample) = some 8#12) ∧
      SystemInv (arbRun 1) := ⟨⟨test_invariant_of_triangle_run, by decide⟩, test_invariant_of_arbitrary_run⟩
theorem test_meets_DisciplinedHostKeepsTheCommand :
    (HeldInv (arbRun 0) ∧ hostStepOk (arbRun 0) = true ∧ after (step (arbRun 0)) (fun t => t.arbIndex) = some 1) ∧
      (HeldInv (doing (ready 0#32) [.hostWrite 3#32]) ∧
        hostStepOk (doing (ready 0#32) [.hostWrite 3#32]) = true) ∧
      (HeldInv (doing (ready 3#32) [.hostWriteIn 3 5#32]) ∧
        hostStepOk (doing (ready 3#32) [.hostWriteIn 3 5#32]) = true ∧
        hostStepOk (doing (ready 3#32) [.hostWriteIn 2 5#32]) = false) := by decide
theorem test_meets_ParametersStayAndTraceGrows : after (step (arbRun 0)) (fun t => t.cfg) = some (arbRun 0).cfg := by decide
/-- BlockIsNeverStuck: the block alone, its own move, and a refused step. -/
theorem test_meets_BlockIsNeverStuck :
    ((arbRun 0).cfg.wf = true ∧ (arbRun 0).agenda = []) ∧
      (doing (arbRun 0) [.block]).agenda = .block :: [] ∧
      refusal (step (doing core [.hostWrite 3#32])) = some .noSuchMove := by decide
/-- MisalignedConfigurationIsRefused: each of the three breaches of R34. -/
theorem test_meets_MisalignedConfigurationIsRefused :
    ({ Config.defaultParams with cmdAddr := 2 } : Params).cmdAddr % 4 ≠ 0 ∧
      ({ Config.defaultParams with wbBase := 4097 } : Params).wbBase % 4 ≠ 0 ∧
      Config.defaultParams.wbBase % 4 = 0 ∧
      (4096 ≤ ({ Config.defaultParams with cmdAddr := 4100 } : Params).cmdAddr ∧
        ({ Config.defaultParams with cmdAddr := 4100 } : Params).cmdAddr < 4096 + 4 * 2) := by decide

end Sys2Proof.Tests
end

/-!
The statements of 30_encoding.md about the delay operand (R52), the frame layout (R56) and the waveform slot (R58).
-/
namespace Sys2Proof.Proofs

open Sys2Proof.Machine Sys2Proof.Safety Sys2Proof.Laws

/-! ## A field as the spec writes it -/

/-- A field is the shifted word under the mask of the field's width, `(w >> start) & (2^n - 1)`. -/
theorem extractLsb'_toNat_eq_shift_and {n : Nat} (w : Word32) (start : Nat) :
    (w.extractLsb' start n).toNat = (w.toNat >>> start) &&& (2 ^ n - 1) := by
  rw [BitVec.extractLsb'_toNat, Nat.and_two_pow_sub_one_eq_mod]

/-! ## The delay of a triangle command (R52) -/

/-- A ready machine executes the command that its register holds. -/
theorem step_of_ready {s : State} (h : Ready s) : step s = exec (decodeCommand s.cmdreg) s := by
  obtain ⟨⟨hwf, hfront, hboot, hagenda⟩, hpoll⟩ := h
  rw [step_of_agenda_nil hwf hagenda, blockStep_polling hboot hfront hpoll]

/-- A triangle word starts the sequencer with the delay of its bits 31:20. -/
theorem exec_triangle_delay {w : Word32} (h : w.toNat % 8 = 5) (s : State) :
    ∃ t, exec (decodeCommand w) s = .next t ∧ t.tri.delay = delayOf (valueOrDelay w) := by
  rw [decodeCommand_tri h]
  exact ⟨_, rfl, rfl⟩

theorem delayOf_eq_ite (vd : BitVec 12) : delayOf vd = if vd.toNat = 0 then 1000 else vd.toNat := by
  rcases delayOf_cases vd with ⟨rfl, hd⟩ | ⟨-, hpos, hd⟩
  · exact hd
  · rw [hd, if_neg hpos.ne']

theorem delayOf_bounds (vd : BitVec 12) : 1 ≤ delayOf vd ∧ delayOf vd ≤ 4095 := by
  have hlt := vd.isLt
  rcases delayOf_cases vd with ⟨-, hd⟩ | ⟨-, hpos, hd⟩ <;> omega

/-- Settles O7: the step starts the sequencer with `delayOf` of bits 31:20, and 0 is the one raw value it replaces. -/
theorem rawDelayZeroMeansDefault : Obligations.RawDelayZeroMeansDefault := by
  refine ⟨fun s hready hword => ?_, rfl⟩
  have htri : s.cmdreg.toNat % 8 = 5 := (and_lowMask_eq_iff s.cmdreg 3 5 (by decide) (by decide)).mp hword
  have hraw : (valueOrDelay s.cmdreg).toNat = (s.cmdreg.toNat >>> 20) &&& 0xFFF :=
    extractLsb'_toNat_eq_shift_and s.cmdreg 20
  obtain ⟨t, ht, hdelay⟩ := exec_triangle_delay htri s
  refine ⟨t, (step_of_ready hready).trans ht, ?_, ?_⟩
  · rw [hdelay, delayOf_eq_ite, hraw]
  · rw [hdelay]; exact delayOf_bounds _

/-! ## The layout of a frame (R56) -/

/-- The frame decoder reads back each field that the frame encoder wrote. -/
theorem decodeFrame_encode (opcode : Byte) (chan : Chan) (samp : Sample) (tag : Byte) :
    decodeFrame (encode (.encode opcode chan samp tag)) = .encode opcode chan samp tag := by
  have ho := opcode.isLt
  have hc := chan.isLt
  have hs := samp.isLt
  have ht := tag.isLt
  rw [decodeFrame, Instr.encode.injEq]
  refine ⟨?_, ?_, ?_, ?_⟩ <;> apply BitVec.eq_of_toNat_eq <;> rw [extractLsb'_toNat_div, encode_encode_toNat] <;> omega

/-- The Wave Encoder's four bytes, byte 0 most significant, are the word of the frame format. -/
theorem waveEncode_toWord (chan : Chan) (samp : Sample) (opcode tag : Byte) :
    (waveEncode chan samp opcode tag).toWord = encode (.encode opcode chan samp tag) := by
  apply BitVec.eq_of_toNat_eq
  rw [frame_toWord_toNat, waveEncode_f1_toNat, waveEncode_f2_toNat, encode_encode_toNat]
  change opcode.toNat * _ + _ + _ + tag.toNat = _
  omega

theorem waveEncode_f1_high (chan : Chan) (samp : Sample) (opcode tag : Byte) :
    (waveEncode chan samp opcode tag).f1.extractLsb' 4 4 = chan := by
  have hc := chan.isLt
  have hs := samp.isLt
  apply BitVec.eq_of_toNat_eq
  rw [BitVec.extractLsb'_toNat, Nat.shiftRight_eq_div_pow, waveEncode_f1_toNat]
  omega

theorem waveEncode_f1_low (chan : Chan) (samp : Sample) (opcode tag : Byte) :
    (waveEncode chan samp opcode tag).f1.extractLsb' 0 4 = samp.extractLsb' 8 4 := by
  apply BitVec.eq_of_toNat_eq
  rw [BitVec.extractLsb'_toNat, BitVec.extractLsb'_toNat, Nat.shiftRight_eq_div_pow, Nat.shiftRight_eq_div_pow,
    waveEncode_f1_toNat]
  omega

theorem waveEncode_f2 (chan : Chan) (samp : Sample) (opcode tag : Byte) :
    (waveEncode chan samp opcode tag).f2 = samp.extractLsb' 0 8 := by
  apply BitVec.eq_of_toNat_eq
  rw [BitVec.extractLsb'_toNat, Nat.shiftRight_zero, waveEncode_f2_toNat]

/-- Settles O12: the bytes are the encoder's, and the four fields of the number are what the frame decoder reads back. -/
theorem frameLayoutAndPattern : Obligations.FrameLayoutAndPattern := by
  intro chan samp opcode tag
  have hfields := decodeFrame_encode opcode chan samp tag
  rw [← waveEncode_toWord, decodeFrame, Instr.encode.injEq] at hfields
  obtain ⟨hopcode, hchan, hsamp, htag⟩ := hfields
  exact ⟨rfl, waveEncode_f1_high .., waveEncode_f1_low .., waveEncode_f2 .., rfl, hopcode, hchan, hsamp, htag,
    waveEncode_toWord ..⟩

/-! ## The waveform slot (R58) -/

/-- Masking bits 31:24 off leaves every field below them. -/
theorem extractLsb'_and_low24 {start n : Nat} (v : Word32) (h : start + n ≤ 24) :
    (v &&& 0x00FFFFFF#32).extractLsb' start n = v.extractLsb' start n := by
  have hmask : ∀ j < 24, (0x00FFFFFF#32).getLsbD j = true := by decide
  apply BitVec.eq_of_getLsbD_eq
  intro i hi
  rw [BitVec.getLsbD_extractLsb', BitVec.getLsbD_extractLsb', BitVec.getLsbD_and, hmask (start + i) (by omega),
    Bool.and_true]

/-- What a slot's word makes the block do does not depend on its bits 31:24. -/
theorem exec_decodeSlot_and_low24 (v : Word32) (s : State) :
    exec (decodeSlot (v &&& 0x00FFFFFF#32)) s = exec (decodeSlot v) s := by
  rw [exec_decodeSlot, exec_decodeSlot, extractLsb'_and_low24 (start := 12) v (by decide),
    extractLsb'_and_low24 (start := 0) v (by decide)]
  rfl

/-- Settles O13: the two halves are fields of the word, and SLOT takes no argument from above them. -/
theorem slotHoldsTwoSamples : Obligations.SlotHoldsTwoSamples := fun v =>
  ⟨⟨_, _, _, rfl, extractLsb'_toNat_eq_shift_and v 12, extractLsb'_toNat_eq_shift_and v 0⟩,
    fun s => (exec_decodeSlot_and_low24 v s).symm, by decide⟩

end Sys2Proof.Proofs

/-!
The statements of 40_command_dispatch.md about polling (R71), the no-op (R75) and the dead end of an infinite dispatch (R80).
-/
namespace Sys2Proof.Proofs

open Sys2Proof.Machine Sys2Proof.Safety Sys2Proof.Laws

/-! ## Which commands are infinite (R80) -/

/-- An infinite command is an arbitrary word, or a triangle word with cycle count 0. -/
theorem infiniteCommand_cases {w : Word32} (h : infiniteCommand w = true) :
    w.toNat % 16 = 9 ∨ (w.toNat % 8 = 5 ∧ cycleCount w = 0#8) := by
  rw [infiniteCommand, busyBit_eq] at h
  rcases word_cases w with hidle | hfixed | htri | harb | hnop
  · simp [hidle] at h
  · simp [modeOf_fixed hfixed] at h
  · have hcount : cycleCount w = 0#8 := by simpa [modeOf_triangle htri, show w.toNat % 2 = 1 by omega] using h
    exact Or.inr ⟨htri, hcount⟩
  · exact Or.inl harb
  · simp [modeOf_noop hnop] at h

/-- Executing an infinite command from a ready state starts its run and leaves the register alone. -/
theorem exec_infiniteCommand_deadEnd {s : State} (hready : Ready s) (h : infiniteCommand s.cmdreg = true) :
    ∃ t, exec (decodeCommand s.cmdreg) s = .next t ∧ DeadEnd t ∧ t.cmdreg = s.cmdreg := by
  obtain ⟨⟨-, hfront, hboot, -⟩, -⟩ := hready
  rcases infiniteCommand_cases h with harb | ⟨htri, hcount⟩
  · rw [decodeCommand_arb harb]
    exact ⟨_, rfl, ⟨hfront, hboot, rfl, Or.inl rfl⟩, rfl⟩
  · rw [decodeCommand_tri htri, hcount]
    exact ⟨_, rfl, ⟨hfront, hboot, rfl, Or.inr ⟨rfl, rfl, Phase.noConfusion⟩⟩, rfl⟩

/-! ## A generator's step does not look at the command register -/

theorem triStep_setCmdreg (s : State) (w : Word32) :
    ({ s with cmdreg := w } : State).triStep = { s.triStep with cmdreg := w } := by
  rw [State.triStep, State.triStep, State.pause, State.pause]
  by_cases hdelay : 0 < s.tri.delay
  · rw [if_pos hdelay, if_pos hdelay]; rfl
  · rw [if_neg hdelay, if_neg hdelay]; rfl

theorem arbStep_setCmdreg {s t : State} (h : s.arbStep = .next t) (w : Word32) :
    ({ s with cmdreg := w } : State).arbStep = .next { t with cmdreg := w } := by
  rw [State.arbStep] at h ⊢
  by_cases hlen : s.cfg.arbLen = 0
  · rw [if_pos hlen] at h ⊢
    cases h; rfl
  · rw [if_neg hlen] at h ⊢
    cases hslot : s.slotStored s.arbIndex with
    | some v =>
      rw [slotRead_known hslot] at h
      rw [slotRead_known (s := { s with cmdreg := w }) hslot]
      cases h; rfl
    | none =>
      rw [slotRead_free hslot] at h
      rw [slotRead_free (s := { s with cmdreg := w }) hslot]
      cases h; rfl

/-! ## The dead end (R80) -/

/-- `t` is a dead end that `s` came to without a poll or a clear: what every move but a reset makes of a dead end. -/
def QuietDeadEnd (s t : State) : Prop :=
  DeadEnd t ∧ ∃ evs, t.trace = s.trace ++ evs ∧ evs.all (fun e => !isPoll e && !isClear e) = true

/-- A dead end stays one under whatever adds no event. -/
theorem QuietDeadEnd.of_trace_eq {s t : State} (hdead : DeadEnd t) (htrace : t.trace = s.trace) : QuietDeadEnd s t :=
  ⟨hdead, [], by rw [htrace, List.append_nil], rfl⟩

/-- No clear is among the events of such a step. -/
theorem QuietDeadEnd.no_clear {s t : State} (h : QuietDeadEnd s t) (k : Nat) :
    ((s.eventsOfStep t).drop k).contains .clear = false := by
  obtain ⟨-, evs, htrace, hquiet⟩ := h
  rw [eventsOfStep_append htrace, ← Bool.not_eq_true, List.contains_iff_mem]
  intro hmem
  have hclear := List.all_eq_true.mp hquiet _ (List.mem_of_mem_drop hmem)
  cases hclear

/-- The sequencer never returns from a forever run. -/
theorem advance_forever_phase_ne_idle {r : TriRegs} (hforever : r.forever = true) (hphase : r.phase ≠ .idle) :
    r.advance.phase ≠ .idle := by
  rcases advance_cases r hphase with
    ⟨-, -, h⟩ | ⟨-, -, h⟩ | ⟨-, -, h⟩ | ⟨-, -, -, h⟩ | ⟨-, -, hf, -⟩ | ⟨-, -, hf, -⟩
  · rw [h]; exact hphase
  · rw [h]; exact Phase.noConfusion
  · rw [h]; exact hphase
  · rw [h]; exact Phase.noConfusion
  · rw [hforever] at hf; cases hf
  · rw [hforever] at hf; cases hf

/-- A frame and perhaps a pause: a forever run in progress goes on. -/
theorem triStep_quietDeadEnd {s : State} (hdead : DeadEnd s) (hmode : s.op.mode = .triangle)
    (hforever : s.tri.forever = true) (hphase : s.tri.phase ≠ .idle) : QuietDeadEnd s s.triStep := by
  obtain ⟨hfront, hboot, hrunning, -⟩ := hdead
  obtain ⟨-, -, hkept⟩ := advance_operands s.tri
  refine ⟨⟨by rwa [triStep_cfg], by rwa [triStep_boot], by rwa [triStep_dispState], Or.inr ?_⟩,
    _, triStep_trace s, ?_⟩
  · rw [triStep_op, triStep_tri, hkept]
    exact ⟨hmode, hforever, advance_forever_phase_ne_idle hforever hphase⟩
  · split <;> rfl

/-- A slot read and its two frames, or nothing from an empty buffer: an arbitrary run goes on. -/
theorem arbStep_quietDeadEnd {s : State} (hdead : DeadEnd s) :
    ∃ t, s.arbStep = .next t ∧ QuietDeadEnd s t ∧ t.cmdreg = s.cmdreg := by
  rcases arbStep_spec s with ⟨-, h⟩ | ⟨-, v, d, h, -⟩
  · exact ⟨s, h, .of_trace_eq hdead rfl, rfl⟩
  · exact ⟨_, h, ⟨hdead, _, rfl, rfl⟩, rfl⟩

theorem runStep_arbitrary {s : State} (hmode : s.op.mode = .arbitrary) : s.runStep = s.arbStep := by
  rw [State.runStep, hmode]

theorem runStep_triangle {s : State} (hmode : s.op.mode = .triangle) (hphase : s.tri.phase ≠ .idle) :
    s.runStep = .next s.triStep := by
  rw [State.runStep, hmode]
  exact if_neg hphase

/-- The block's step in a dead end: a dead end again, with the register kept and never looked at. -/
theorem deadEnd_blockStep {s : State} (hdead : DeadEnd s) :
    ∃ t, blockStep s = .next t ∧ QuietDeadEnd s t ∧ t.cmdreg = s.cmdreg ∧
      ∀ w, blockStep { s with cmdreg := w } = .next { t with cmdreg := w } := by
  have ⟨hfront, hboot, hrunning, hmode⟩ := hdead
  have hrun (w : Word32) : blockStep { s with cmdreg := w } = ({ s with cmdreg := w } : State).runStep :=
    blockStep_running hboot hfront hrunning
  rw [blockStep_running hboot hfront hrunning]
  rcases hmode with harb | ⟨htri, hforever, hphase⟩
  · obtain ⟨t, ht, hquiet, hreg⟩ := arbStep_quietDeadEnd hdead
    refine ⟨t, (runStep_arbitrary harb).trans ht, hquiet, hreg, fun w => ?_⟩
    rw [hrun w, runStep_arbitrary (s := { s with cmdreg := w }) harb, arbStep_setCmdreg ht w]
  · refine ⟨s.triStep, runStep_triangle htri hphase, triStep_quietDeadEnd hdead htri hforever hphase,
      triStep_cmdreg s, fun w => ?_⟩
    rw [hrun w, runStep_triangle (s := { s with cmdreg := w }) htri hphase, triStep_setCmdreg]

/-- Wherever inside the step a host write lands, the step is the one without it, and the word stays in the register. -/
theorem deadEnd_hostWriteIn {s : State} (hdead : DeadEnd s) (k : Nat) (w : Word32) :
    ∃ t, s.hostWriteIn k w = .next t ∧ QuietDeadEnd s t ∧ t.cmdreg = w := by
  by_cases hk : k = 0
  · obtain ⟨t, -, hquiet, -, hset⟩ := deadEnd_blockStep hdead
    rw [hk, hostWriteIn_zero]
    exact ⟨_, hset w, hquiet, rfl⟩
  · obtain ⟨t, hblock, hwrite⟩ := hostWriteIn_spec hk w s
    obtain ⟨u, hu, hquiet, -, -⟩ := deadEnd_blockStep hdead
    cases hu.symm.trans hblock
    refine ⟨_, hwrite, hquiet, ?_⟩
    rw [overwrittenAfter_cmdreg, hquiet.no_clear k]
    rfl

/-- What a move other than a reset does to a dead end: only the host changes the register. -/
theorem deadEnd_applyMove {s t : State} {m : Move} (hdead : DeadEnd s) (hreset : ∀ r, m ≠ .reset r)
    (h : applyMove m s = .next t) :
    QuietDeadEnd s t ∧
      (t.cmdreg = s.cmdreg ∨ ∃ w, (m = .hostWrite w ∨ ∃ k, m = .hostWriteIn k w) ∧ t.cmdreg = w) := by
  have ⟨hfront, _⟩ := hdead
  cases m with
  | block =>
    obtain ⟨u, hu, hquiet, hreg, -⟩ := deadEnd_blockStep hdead
    cases hu.symm.trans h
    exact ⟨hquiet, Or.inl hreg⟩
  | hostWrite w =>
    rw [applyMove, if_pos hfront] at h
    cases h
    exact ⟨.of_trace_eq hdead rfl, Or.inr ⟨w, Or.inl rfl, rfl⟩⟩
  | hostWriteIn k w =>
    rw [applyMove, if_pos hfront] at h
    obtain ⟨u, hu, hquiet, hreg⟩ := deadEnd_hostWriteIn hdead k w
    cases hu.symm.trans h
    exact ⟨hquiet, Or.inr ⟨w, Or.inr ⟨k, rfl⟩, hreg⟩⟩
  | slotBegin i =>
    rw [applyMove, State.slotBegin] at h
    split at h
    · cases h
      split
      · exact ⟨.of_trace_eq hdead rfl, Or.inl rfl⟩
      · exact ⟨.of_trace_eq hdead rfl, Or.inl rfl⟩
    · cases h
  | slotWrite i v =>
    rw [applyMove] at h
    split at h
    · cases h
      exact ⟨.of_trace_eq hdead rfl, Or.inl rfl⟩
    · cases h
  | reset r => exact absurd rfl (hreset r)
  | triStart chan cycles delay =>
    rw [applyMove, if_pos hfront] at h
    cases h
  | encPort opcode chan samp tag =>
    rw [applyMove, if_pos hfront] at h
    cases h

/-- A step that answers is taken in a configuration with a meaning. -/
theorem cfg_wf_of_step_next {s t : State} (h : step s = .next t) : s.cfg.wf = true := by
  rw [step] at h
  split at h
  · assumption
  · cases h

/-- What a step of the system other than a reset does to a dead end, whichever agent's move it is. -/
theorem deadEnd_step {s t : State} (hdead : DeadEnd s) (hreset : noResetNext s = true) (h : step s = .next t) :
    QuietDeadEnd s t ∧
      (t.cmdreg = s.cmdreg ∨
        ∃ w rest, (s.agenda = .hostWrite w :: rest ∨ ∃ k, s.agenda = .hostWriteIn k w :: rest) ∧ t.cmdreg = w) := by
  have hwf := cfg_wf_of_step_next h
  cases hagenda : s.agenda with
  | nil =>
    obtain ⟨u, hu, hquiet, hreg, -⟩ := deadEnd_blockStep hdead
    rw [step_of_agenda_nil hwf hagenda, hu] at h
    cases h
    exact ⟨hquiet, Or.inl hreg⟩
  | cons m rest =>
    have hm (r : ResetMove) : m ≠ .reset r := by
      rintro rfl
      rw [noResetNext, hagenda] at hreset
      cases hreset
    rw [step_of_agenda_cons hwf hagenda] at h
    obtain ⟨hquiet, hreg⟩ := deadEnd_applyMove (s := { s with agenda := rest }) hdead hm h
    refine ⟨hquiet, hreg.imp_right ?_⟩
    rintro ⟨w, hhost, hw⟩
    exact ⟨w, rest, hhost.imp (fun e => by rw [e]) (fun ⟨k, e⟩ => ⟨k, by rw [e]⟩), hw⟩

/-- A reset on the agenda leads to boot from any state, whatever part of a step it cuts off. -/
theorem step_reset_boots {s : State} {r : ResetMove} {rest : List Move} (hwf : s.cfg.wf = true)
    (hagenda : s.agenda = .reset r :: rest) : ∃ t, step s = .next t ∧ t.dispState = .polling ∧ t.boot = .opening := by
  obtain ⟨u, -, hreset⟩ := resetDuring_spec r { s with agenda := rest }
  refine ⟨_, step_of_agenda_cons hwf hagenda, ?_, ?_⟩ <;> rw [hreset]
  · exact envReset_dispState r _
  · exact envReset_boot r _

/-- Settles O42: no generator step of an infinite run returns, reads the register or clears it, and the other agents' moves
touch at most the register and the buffer. -/
theorem infiniteDispatchIsDeadEnd : Obligations.InfiniteDispatchIsDeadEnd := by
  refine ⟨fun s hready hinf => ?_, fun s t hdead hreset hstep => ?_, fun s w hdead hwf hagenda => ?_,
    fun s r rest _ hwf hagenda => step_reset_boots hwf hagenda⟩
  · rw [step_of_ready hready]
    exact exec_infiniteCommand_deadEnd hready hinf
  · obtain ⟨⟨hdead', hevs⟩, hreg⟩ := deadEnd_step hdead hreset hstep
    exact ⟨hdead', hreg, hevs⟩
  · obtain ⟨t, ht, -, -, hset⟩ := deadEnd_blockStep hdead
    exact ⟨t, (step_of_agenda_nil hwf hagenda).trans ht,
      (step_of_agenda_nil (s := { s with cmdreg := w }) hwf hagenda).trans (hset w)⟩

/-! ## The poll (R71) -/

/-- Executing a busy word records the poll that saw it before anything else. -/
theorem exec_busy_trace {w : Word32} (h : w.toNat % 2 = 1) (s : State) :
    ∃ t evs, exec (decodeCommand w) s = .next t ∧ t.trace = s.trace ++ .poll s.cmdreg :: evs := by
  rcases word_cases w with hidle | hfixed | htri | harb | hnop
  · omega
  · rw [decodeCommand_fixed hfixed]
    exact ⟨_, fixedTrace (channelSelector w) (valueOrDelay w) ++ [.clear], rfl, by simp [fixedTrace]⟩
  · rw [decodeCommand_tri htri]
    exact ⟨_, [], rfl, rfl⟩
  · rw [decodeCommand_arb harb]
    exact ⟨_, [], rfl, rfl⟩
  · rw [decodeCommand_nop hnop]
    exact ⟨_, [.clear], rfl, by simp⟩

/-- Settles O25: bit 0 alone separates IDLE from the four commands, and each of those begins with its poll. -/
theorem pollWaitsForBusy : Obligations.PollWaitsForBusy := by
  intro s hready
  rw [step_of_ready hready]
  refine ⟨fun hidle => ?_, fun hbusy => ?_⟩
  · rw [decodeCommand_idle ((and_lowMask_eq_iff s.cmdreg 1 0 (by decide) (by decide)).mp hidle)]
    rfl
  · exact exec_busy_trace ((and_lowMask_eq_iff s.cmdreg 1 1 (by decide) (by decide)).mp hbusy) s

/-! ## The no-op (R75) -/

/-- The whole effect of NOP: the poll and the clear, the latches, the register at 0 and the dispatcher polling again. -/
theorem execNop_eq (vd : BitVec 12) (chan : Chan) (cyc : BitVec 8) (rsvd : BitVec 4) (s : State) :
    execNop vd chan cyc rsvd s = .next { s with
      trace := s.trace ++ [.poll s.cmdreg, .clear]
      op := { mode := .noop, chan := chan, vd := vd, cycles := cyc }
      cmdreg := 0#32
      dispState := .polling } := by
  simp [execNop, State.complete, State.cmdClear, State.accept]

/-- Settles O26: the four low bits decode to NOP, whose mode is the one the word latches. -/
theorem nopDispatch : Obligations.NopDispatch := by
  intro s hready hword
  have hnop : s.cmdreg.toNat % 16 = 1 := (and_lowMask_eq_iff s.cmdreg 4 1 (by decide) (by decide)).mp hword
  have ⟨_, hpoll⟩ := hready
  rw [step_of_ready hready, decodeCommand_nop hnop, exec, execNop_eq, latchesOf, modeOf_noop hnop, ← hpoll]

end Sys2Proof.Proofs

/-!
The Wave Encoder of 41_wave_encoder.md: ENCODE packs its four inputs into the frame buffer (R85, R92).
-/
namespace Sys2Proof.Proofs

open Sys2Proof.Machine Sys2Proof.Laws

/-- The whole effect of ENCODE: the encoder's frame stands in the frame buffer. -/
theorem exec_encode_eq (opcode : Byte) (chan : Chan) (samp : Sample) (tag : Byte) (s : State) :
    exec (.encode opcode chan samp tag) s = .next { s with fb := waveEncode chan samp opcode tag } := rfl

/-- Settles O10: the frame is the encoder's; its bytes 0 and 3 are copied inputs, and bytes 1 and 2 are the two parts of
the sample, the channel above the high one. -/
theorem encoderPacksFrame : Obligations.EncoderPacksFrame := by
  intro opcode chan samp tag s
  exact ⟨waveEncode chan samp opcode tag, exec_encode_eq .., rfl, waveEncode_f1_toNat .., waveEncode_f2_toNat .., rfl⟩

end Sys2Proof.Proofs

/-!
The Fixed Generator of 42_fixed_generator.md: the dispatch of a fixed word (R95).
-/
namespace Sys2Proof.Proofs

open Sys2Proof.Machine Sys2Proof.Safety Sys2Proof.Laws

/-- The whole effect of FIXED: the poll, one frame left in the frame buffer and the clear, the latches, the register at 0
and the dispatcher polling again. -/
theorem execFixed_eq (val : Sample) (chan : Chan) (cyc : BitVec 8) (rsvd : BitVec 4) (m3 m2 : BitVec 1) (s : State) :
    execFixed val chan cyc rsvd m3 m2 s = .next { s with
      trace := s.trace ++ [.poll s.cmdreg, .tx (waveEncode chan val Config.opcUpdate Config.tagUpdate), .clear]
      op := { mode := .fixed, chan := chan, vd := val, cycles := cyc }
      fb := waveEncode chan val Config.opcUpdate Config.tagUpdate
      cmdreg := 0#32
      dispState := .polling } := by
  simp [execFixed, State.complete, State.cmdClear, State.sendFrame, State.transfer, State.emit, State.encodeFrame,
    State.accept]

/-- Settles O27: the two low bits decode to FIXED, whose mode is the one the word latches. -/
theorem fixedDispatch : Obligations.FixedDispatch := by
  intro s hready hword
  have hfixed : s.cmdreg.toNat % 4 = 3 := (and_lowMask_eq_iff s.cmdreg 2 3 (by decide) (by decide)).mp hword
  have ⟨_, hpoll⟩ := hready
  refine ⟨rfl, ?_⟩
  rw [step_of_ready hready, decodeCommand_fixed hfixed, exec, execFixed_eq, latchesOf, modeOf_fixed hfixed, ← hpoll,
    Config.opcUpdate, Config.tagUpdate]

end Sys2Proof.Proofs

/-!
The Triangle Generator of 43_triangle_generator.md: where a run stands after any number of steps, in closed form (R103,
R111), and from it the statements about pauses (R106), finite and infinite runs (R109, R107) and equal runs (R115).
-/
namespace Sys2Proof.Proofs

open Sys2Proof.Machine Sys2Proof.Safety Sys2Proof.Laws

/-! ## One step of a run in progress (R103) -/

/-- The whole effect of a step of the sequencer: the current sample's frame, its pause if there is a delay, the advance. -/
theorem triStep_eq (s : State) :
    s.triStep = { s with
      fb := waveEncode s.tri.chan s.tri.sample s.cfg.opcTri s.cfg.tagTri
      trace := s.trace ++ (.tx (waveEncode s.tri.chan s.tri.sample s.cfg.opcTri s.cfg.tagTri) ::
        if 0 < s.tri.delay then [.wait s.tri.delay] else [])
      tri := s.tri.advance } := by
  rw [← triStep_trace]
  by_cases hdelay : 0 < s.tri.delay
  · simp only [State.triStep, State.pause, if_pos hdelay]; rfl
  · simp only [State.triStep, State.pause, if_neg hdelay]; rfl

/-- In a dispatched run and in the core alone, a step of the machine is the sequencer's. -/
theorem step_of_sequencerRuns {s : State} (hrun : SequencerRuns s) (hphase : s.tri.phase ≠ .idle) :
    step s = .next s.triStep := by
  rcases hrun with ⟨⟨hwf, hfront, hboot, hagenda⟩, hrunning, hmode⟩ | ⟨hwf, hfront, hboot, hagenda⟩
  · rw [step_of_agenda_nil hwf hagenda, blockStep_running hboot hfront hrunning, runStep_triangle hmode hphase]
  · rw [step_of_agenda_nil hwf hagenda, blockStep_core hboot hfront, State.coreStep, if_neg hphase]

/-! ## Pauses (R106) -/

/-- A dispatched run in a state of the system has the delay of its command word. -/
theorem delay_of_systemInv {s : State} (hinv : SystemInv s) (hrun : InTriangle s) : s.tri.delay = delayOf s.op.vd := by
  obtain ⟨-, -, -, ⟨-, hrunning, -⟩, -⟩ := hinv
  obtain ⟨⟨-, hfront, -, -⟩, hdisp, hmode⟩ := hrun
  rcases hrunning hfront hdisp with ⟨-, -, hdelay, -⟩ | ⟨harb, -⟩
  · exact hdelay
  · rw [hmode] at harb; cases harb

/-- Settles O32: the sequencer's step emits the pair, and a command word's delay is never 0. -/
theorem everyFrameIsFollowedByItsPause : Obligations.EveryFrameIsFollowedByItsPause := by
  intro s hrun hphase
  obtain ⟨-, hdelay, -⟩ := advance_operands s.tri
  refine ⟨s.triStep, s.triStep.fb, step_of_sequencerRuns hrun hphase, ?_, by rw [triStep_tri, hdelay],
    fun hinv htri => ?_⟩
  · rw [triStep_trace, triStep_fb]
    by_cases hzero : s.tri.delay = 0
    · rw [if_pos hzero, if_neg (by omega)]
    · rw [if_neg hzero, if_pos (by omega)]
  · rw [delay_of_systemInv hinv htri]
    exact delayOf_bounds _

/-! ## The registers after `k` frames, in closed form (10_state.md section 5) -/

/-- The registers of a run in progress that has sent `k` frames. With count 0 the remaining count stays 0. -/
def runningRegs (chan : Chan) (n delay k : Nat) : TriRegs where
  phase := if k % 8192 < 4096 then .up else .down
  sample := BitVec.ofNat 12 (triSample k)
  left := n - k / 8192
  forever := foreverOf n
  chan := chan
  delay := delay
  returned := false

/-- The registers of a run that has returned (R105). -/
def returnedRegs (chan : Chan) (delay : Nat) : TriRegs where
  phase := .idle
  sample := 0#12
  left := 0
  forever := false
  chan := chan
  delay := delay
  returned := true

/-- The registers of a run of `n` cycles after its first `k` frames, up to the return. -/
def regsAfterFrames (chan : Chan) (n delay k : Nat) : TriRegs :=
  if n ≠ 0 ∧ k = 8192 * n then returnedRegs chan delay else runningRegs chan n delay k

theorem regsAfterFrames_of_running {n k : Nat} (hk : n = 0 ∨ k < 8192 * n) (chan : Chan) (delay : Nat) :
    regsAfterFrames chan n delay k = runningRegs chan n delay k :=
  if_neg (by omega)

theorem regsAfterFrames_last {n : Nat} (hn : 1 ≤ n) (chan : Chan) (delay : Nat) :
    regsAfterFrames chan n delay (8192 * n) = returnedRegs chan delay :=
  if_pos ⟨by omega, rfl⟩

theorem regsAfterFrames_zero (chan : Chan) (n delay : Nat) :
    regsAfterFrames chan n delay 0 = TriRegs.started chan n delay :=
  if_neg (by omega)

/-- A run never changes its operands (R115). -/
theorem regsAfterFrames_operands (chan : Chan) (n delay k : Nat) :
    (regsAfterFrames chan n delay k).chan = chan ∧ (regsAfterFrames chan n delay k).delay = delay := by
  rw [regsAfterFrames]
  split <;> exact ⟨rfl, rfl⟩

theorem triSample_of_up {k : Nat} (hk : k % 8192 < 4096) : triSample k = k % 8192 := if_pos hk

theorem triSample_of_down {k : Nat} (hk : 4096 ≤ k % 8192) : triSample k = 8191 - k % 8192 := if_neg (by omega)

theorem runningRegs_sample_toNat (chan : Chan) (n delay k : Nat) :
    (runningRegs chan n delay k).sample.toNat = triSample k := by
  refine (BitVec.toNat_ofNat ..).trans (Nat.mod_eq_of_lt ?_)
  rw [triSample]
  split <;> omega

theorem runningRegs_phase_eq_up_iff {chan : Chan} {n delay k : Nat} :
    (runningRegs chan n delay k).phase = .up ↔ k % 8192 < 4096 := by
  rw [runningRegs]
  split <;> simp [*]

theorem runningRegs_phase_eq_down_iff {chan : Chan} {n delay k : Nat} :
    (runningRegs chan n delay k).phase = .down ↔ 4096 ≤ k % 8192 := by
  rw [runningRegs]
  split <;> simp <;> omega

theorem runningRegs_phase_ne_idle {chan : Chan} {n delay k : Nat} : (runningRegs chan n delay k).phase ≠ .idle := by
  rw [runningRegs]
  split <;> exact Phase.noConfusion

/-! ## The sequencer follows the closed form -/

/-- On the way up, below the top, the next sample is one more. -/
theorem triSample_succ_of_up {k : Nat} (hk : k % 8192 < 4095) : triSample (k + 1) = triSample k + 1 := by
  rw [triSample_of_up (by omega), triSample_of_up (by omega)]
  omega

/-- On the way down, above the bottom, the next sample is one less. -/
theorem triSample_succ_of_down {k : Nat} (hk : 4096 ≤ k % 8192) (hlt : k % 8192 < 8191) :
    triSample k = triSample (k + 1) + 1 := by
  rw [triSample_of_down hk, triSample_of_down (by omega)]
  omega

/-- The top and the bottom are sent twice. -/
theorem triSample_succ_of_turn {k : Nat} (hk : k % 4096 = 4095) : triSample (k + 1) = triSample k := by
  rw [triSample, triSample]
  split <;> split <;> omega

/-- The way up: the sample rises. -/
theorem runningRegs_succ_of_up {chan : Chan} {n delay k : Nat} (hk : k % 8192 < 4095) :
    runningRegs chan n delay (k + 1) =
      { runningRegs chan n delay k with sample := (runningRegs chan n delay k).sample + 1#12 } := by
  have hcycle : (k + 1) / 8192 = k / 8192 := by omega
  simp [runningRegs, hcycle, triSample_succ_of_up hk, BitVec.ofNat_add, show k % 8192 < 4096 by omega,
    show (k + 1) % 8192 < 4096 by omega]

/-- The top: the phase turns. -/
theorem runningRegs_succ_of_top {chan : Chan} {n delay k : Nat} (hk : k % 8192 = 4095) :
    runningRegs chan n delay (k + 1) = { runningRegs chan n delay k with phase := .down } := by
  have hcycle : (k + 1) / 8192 = k / 8192 := by omega
  simp [runningRegs, hcycle, triSample_succ_of_turn (k := k) (by omega), show 4096 ≤ (k + 1) % 8192 by omega]

/-- The way down: the sample falls. -/
theorem runningRegs_succ_of_down {chan : Chan} {n delay k : Nat} (hk : 4096 ≤ k % 8192) (hlt : k % 8192 < 8191) :
    runningRegs chan n delay (k + 1) =
      { runningRegs chan n delay k with sample := (runningRegs chan n delay k).sample - 1#12 } := by
  have hcycle : (k + 1) / 8192 = k / 8192 := by omega
  simp [runningRegs, hcycle, triSample_succ_of_down hk hlt, BitVec.ofNat_add,
    show ¬ k % 8192 < 4096 by omega, show ¬ (k + 1) % 8192 < 4096 by omega]

/-- The bottom: the next cycle begins, and a finite run has counted one. -/
theorem runningRegs_succ_of_bottom {chan : Chan} {n delay k : Nat} (hk : k % 8192 = 8191) :
    runningRegs chan n delay (k + 1) =
      { runningRegs chan n delay k with phase := .up, left := (runningRegs chan n delay k).left - 1 } := by
  have hcycle : (k + 1) / 8192 = k / 8192 + 1 := by omega
  simp [runningRegs, hcycle, triSample_succ_of_turn (k := k) (by omega), show (k + 1) % 8192 < 4096 by omega,
    Nat.sub_sub]

theorem runningRegs_bottom_of_down {chan : Chan} {n delay k : Nat} (hphase : (runningRegs chan n delay k).phase = .down)
    (hs : (runningRegs chan n delay k).sample = 0#12) : k % 8192 = 8191 := by
  have hsamp := runningRegs_sample_toNat chan n delay k
  rw [runningRegs_phase_eq_down_iff] at hphase
  rw [hs, triSample_of_down hphase, BitVec.toNat_ofNat] at hsamp
  omega

/-- The advance after frame `k` of a run that is not over then: the sequencer's transitions are the steps of the closed
form, and the one to IDLE is taken at the last frame of the last cycle. -/
theorem advance_runningRegs {n k : Nat} (hk : n = 0 ∨ k < 8192 * n) (chan : Chan) (delay : Nat) :
    (runningRegs chan n delay k).advance = regsAfterFrames chan n delay (k + 1) := by
  have hsamp := runningRegs_sample_toNat chan n delay k
  rcases advance_cases (runningRegs chan n delay k) runningRegs_phase_ne_idle with
    ⟨hphase, hs, h⟩ | ⟨hphase, hs, h⟩ | ⟨hphase, hs, h⟩ | ⟨hphase, hs, hf, h⟩ | ⟨hphase, hs, hf, hleft, h⟩ |
    ⟨hphase, hs, hf, hleft, h⟩
  · rw [runningRegs_phase_eq_up_iff] at hphase
    rw [hsamp, triSample_of_up hphase] at hs
    rw [h, regsAfterFrames_of_running (by omega), runningRegs_succ_of_up hs]
  · rw [runningRegs_phase_eq_up_iff] at hphase
    rw [hs, triSample_of_up hphase] at hsamp
    rw [h, regsAfterFrames_of_running (by omega), runningRegs_succ_of_top hsamp.symm]
  · rw [runningRegs_phase_eq_down_iff] at hphase
    rw [hsamp, triSample_of_down hphase] at hs
    rw [h, regsAfterFrames_of_running (by omega), runningRegs_succ_of_down hphase (by omega)]
  · have hzero : n = 0 := beq_iff_eq.mp hf
    rw [h, regsAfterFrames_of_running (Or.inl hzero),
      runningRegs_succ_of_bottom (runningRegs_bottom_of_down hphase hs), hzero]
    simp only [runningRegs, Nat.zero_sub]
  · have hbottom := runningRegs_bottom_of_down hphase hs
    have hmore : 1 < n - k / 8192 := hleft
    rw [h, regsAfterFrames_of_running (by omega), runningRegs_succ_of_bottom hbottom]
  · have hbottom := runningRegs_bottom_of_down hphase hs
    have hlast : n - k / 8192 ≤ 1 := hleft
    have hfinite : n ≠ 0 := beq_eq_false_iff_ne.mp hf
    rw [h, show k + 1 = 8192 * n by omega, regsAfterFrames_last (by omega), hs, hf]
    rfl

/-! ## The whole machine after `k` frames -/

/-- The frame buffer after `k` frames of a run that began in `s` (R19). -/
def frameBufferAfter (s : State) (chan : Chan) : Nat → Frame
  | 0 => s.fb
  | k + 1 => waveEncode chan (BitVec.ofNat 12 (triSample k)) s.cfg.opcTri s.cfg.tagTri

/-- The machine after `k` frames of a run that began in `s`: the frame buffer, the trace and the sequencer are the only
things that moved. -/
def runStateAfter (s : State) (chan : Chan) (n delay k : Nat) : State :=
  { s with
    fb := frameBufferAfter s chan k
    trace := s.trace ++ triStreamPrefix s.cfg chan delay k
    tri := regsAfterFrames chan n delay k }

theorem runStateAfter_zero {s : State} {chan : Chan} {n delay : Nat} (hstart : s.tri = TriRegs.started chan n delay) :
    runStateAfter s chan n delay 0 = s := by
  rw [runStateAfter, regsAfterFrames_zero, ← hstart, triStreamPrefix, List.append_nil, frameBufferAfter]

/-- One frame more. -/
theorem step_runStateAfter {s : State} (hrun : SequencerRuns s) {n k : Nat} (hk : n = 0 ∨ k < 8192 * n) (chan : Chan)
    (delay : Nat) : step (runStateAfter s chan n delay k) = .next (runStateAfter s chan n delay (k + 1)) := by
  have htri : (runStateAfter s chan n delay k).tri = runningRegs chan n delay k := regsAfterFrames_of_running hk chan delay
  rw [step_of_sequencerRuns (s := runStateAfter s chan n delay k) hrun (by rw [htri]; exact runningRegs_phase_ne_idle),
    triStep_eq, htri, advance_runningRegs hk]
  simp only [runStateAfter, triStreamPrefix, List.append_assoc]
  rfl

/-- Where a run stands after its first `k` steps, from its start up to its return (R103, R111). -/
theorem runFor_of_started {s : State} {chan : Chan} {n delay : Nat} (hrun : SequencerRuns s)
    (hstart : s.tri = TriRegs.started chan n delay) {k : Nat} (hk : n = 0 ∨ k ≤ 8192 * n) :
    runFor k s = .next (runStateAfter s chan n delay k) := by
  induction k with
  | zero => rw [runFor_zero, runStateAfter_zero hstart]
  | succ k ih => exact runFor_snoc (ih (by omega)) (step_runStateAfter hrun (by omega) chan delay)

/-! ## The events of a run (R111) -/

/-- The events of a triangle run are frames on its channel with the triangle's opcode and tag, and pauses of its delay. -/
theorem mem_triStreamPrefix {p : Params} {chan : Chan} {delay k : Nat} {e : Event}
    (he : e ∈ triStreamPrefix p chan delay k) :
    e = .wait delay ∨ ∃ samp, e = .tx (waveEncode chan samp p.opcTri p.tagTri) := by
  induction k with
  | zero => cases he
  | succ k ih =>
    rw [triStreamPrefix, List.mem_append, triEvents, triEmit, List.mem_cons] at he
    rcases he with he | rfl | he
    · exact ih he
    · exact Or.inr ⟨_, rfl⟩
    · split at he
      · exact Or.inl (List.mem_singleton.mp he)
      · cases he

/-- Only the opcode and the tag of the configuration show in the events. -/
theorem triStreamPrefix_congr {p q : Params} (hopc : p.opcTri = q.opcTri) (htag : p.tagTri = q.tagTri) (chan : Chan)
    (delay k : Nat) : triStreamPrefix p chan delay k = triStreamPrefix q chan delay k := by
  induction k with
  | zero => rfl
  | succ k ih => rw [triStreamPrefix, triStreamPrefix, ih, triEvents, triEvents, triEmit, triEmit, hopc, htag]

theorem length_filter_isTx_triStreamPrefix (p : Params) (chan : Chan) (delay k : Nat) :
    ((triStreamPrefix p chan delay k).filter isTx).length = k := by
  induction k with
  | zero => rfl
  | succ k ih =>
    rw [triStreamPrefix, List.filter_append, List.length_append, ih, triEvents, triEmit]
    split <;> rfl

theorem length_filter_isWait_triStreamPrefix (p : Params) (chan : Chan) (delay k : Nat) :
    ((triStreamPrefix p chan delay k).filter isWait).length = if 0 < delay then k else 0 := by
  induction k with
  | zero => exact (ite_self 0).symm
  | succ k ih =>
    rw [triStreamPrefix, List.filter_append, List.length_append, ih, triEvents, triEmit]
    split <;> rfl

/-! ## A finite run (R109) -/

/-- Settles O36: the run adds the first `8192 * n` frames of the stream, and after them the sequencer is back in IDLE. -/
theorem finiteRunFrameCount : Obligations.FiniteRunFrameCount := by
  refine ⟨fun s chan n delay hrun hstart hn => ?_, fun cyc => ?_⟩
  · refine ⟨_, triTrace s.cfg chan n delay, runFor_of_started hrun hstart (Or.inr le_rfl), ?_, rfl,
      length_filter_isTx_triStreamPrefix .., length_filter_isWait_triStreamPrefix ..⟩
    rw [runStateAfter, regsAfterFrames_last hn]
    rfl
  · have hlt := cyc.isLt
    omega

/-! ## A forever run (R107) -/

/-- A forever run has the same registers one cycle later. -/
theorem runningRegs_forever_add_cycle (chan : Chan) (delay k : Nat) :
    runningRegs chan 0 delay (k + 8192) = runningRegs chan 0 delay k := by
  simp only [runningRegs, triSample, Nat.add_mod_right, Nat.zero_sub]

/-- A triangle run polls and clears nothing. -/
theorem triStreamPrefix_no_clear_or_poll (p : Params) (chan : Chan) (delay k : Nat) :
    (triStreamPrefix p chan delay k).all (fun e => !isClear e && !isPoll e) = true := by
  rw [List.all_eq_true]
  intro e he
  rcases mem_triStreamPrefix he with rfl | ⟨_, rfl⟩ <;> rfl

/-- Settles O38: with count 0 the closed form of the registers holds for every number of frames and has the period of one
cycle. -/
theorem foreverRunNeverReturns : Obligations.ForeverRunNeverReturns := by
  intro s chan delay htri hstart k
  have hregs (j : Nat) : (runStateAfter s chan 0 delay j).tri = runningRegs chan 0 delay j :=
    regsAfterFrames_of_running (Or.inl rfl) chan delay
  have ⟨_, hrunning, _⟩ := htri
  refine ⟨_, _, runFor_of_started (Or.inl htri) hstart (Or.inl rfl), runFor_of_started (Or.inl htri) hstart (Or.inl rfl),
    ?_, hrunning, ?_, rfl, ?_, rfl, triStreamPrefix_no_clear_or_poll ..⟩
  · rw [hregs]
    exact runningRegs_phase_ne_idle
  · rw [hregs, hstart]
    exact Nat.zero_sub _
  · rw [hregs, hregs, runningRegs_forever_add_cycle]

/-! ## Runs with the same operands (R115) -/

/-- A host write changes the command register and nothing else. -/
theorem step_hostWrite {s : State} {w : Word32} {rest : List Move} (hwf : s.cfg.wf = true)
    (hfront : s.cfg.frontEnd = true) (hagenda : s.agenda = .hostWrite w :: rest) :
    step s = .next { s with cmdreg := w, agenda := rest } := by
  rw [step_of_agenda_cons hwf hagenda, applyMove, if_pos hfront]

/-- Settles O39: the closed forms of registers and trace mention the operands, the opcode and the tag only. -/
theorem runsWithSameOperandsAgree : Obligations.RunsWithSameOperandsAgree := by
  refine ⟨fun s1 s2 chan n delay hrun1 hrun2 hstart1 hstart2 hopc htag k hk => ?_,
    fun s w rest hwf hfront hagenda => step_hostWrite hwf hfront hagenda⟩
  obtain ⟨hchan, hdelay⟩ := regsAfterFrames_operands chan n delay k
  refine ⟨_, _, triStreamPrefix s1.cfg chan delay k, runFor_of_started hrun1 hstart1 hk,
    runFor_of_started hrun2 hstart2 hk, rfl, ?_, rfl, hchan, hdelay, fun e he => mem_triStreamPrefix he⟩
  rw [triStreamPrefix_congr hopc htag]
  rfl

end Sys2Proof.Proofs

/-!
The encodings of 30_encoding.md: each format's decoder and the encoder are inverse to each other, the operation map selects
one row, the assembler's words; and the inverse of the Wave Encoder (41_wave_encoder.md section 2).
-/
namespace Sys2Proof.Proofs

open Sys2Proof.Machine Sys2Proof.Laws

/-- Settles O1: every word is a numeral, so the decoders evaluate. -/
theorem specWordsDecode : Obligations.SpecWordsDecode := by
  unfold Obligations.SpecWordsDecode
  decide

/-! ## Decode of encode (30_encoding.md sections 1, 3, 5 and 6) -/

/-- The fields of a busy word that is written as their sum, whatever its low four bits. -/
theorem fields_of_toNat {w : Word32} {vd : BitVec 12} {chan : Chan} {cyc : BitVec 8} {rsvd : BitVec 4} {low : Nat}
    (hw : w.toNat = vd.toNat * 0x100000 + chan.toNat * 0x10000 + cyc.toNat * 0x100 + rsvd.toNat * 0x10 + low)
    (hlow : low < 16) :
    valueOrDelay w = vd ∧ channelSelector w = chan ∧ cycleCount w = cyc ∧ unnamedBits w = rsvd := by
  have hv := vd.isLt
  have hc := chan.isLt
  have hy := cyc.isLt
  have hr := rsvd.isLt
  refine ⟨?_, ?_, ?_, ?_⟩ <;> apply BitVec.eq_of_toNat_eq
  · rw [valueOrDelay_toNat]; omega
  · rw [channelSelector_toNat]; omega
  · rw [cycleCount_toNat]; omega
  · rw [unnamedBits_toNat]; omega

/-- A single bit of a word, read off its number. -/
theorem extractLsb'_one_eq {w : Word32} {start : Nat} {b : BitVec 1} (h : w.toNat / 2 ^ start % 2 = b.toNat) :
    w.extractLsb' start 1 = b :=
  BitVec.eq_of_toNat_eq (by rw [extractLsb'_toNat_div, ← h, Nat.pow_one])

theorem decodeCommand_encode_idle (rest : BitVec 31) : decodeCommand (encode (.idle rest)) = .idle rest := by
  have hw := encode_idle_toNat rest
  rw [decodeCommand_idle (by omega), Instr.idle.injEq]
  apply BitVec.eq_of_toNat_eq
  rw [extractLsb'_toNat_div]; omega

theorem decodeCommand_encode_nop (vd : BitVec 12) (chan : Chan) (cyc : BitVec 8) (rsvd : BitVec 4) :
    decodeCommand (encode (.nop vd chan cyc rsvd)) = .nop vd chan cyc rsvd := by
  have hw := encode_nop_toNat vd chan cyc rsvd
  obtain ⟨hvd, hchan, hcyc, hrsvd⟩ := fields_of_toNat hw (by decide)
  rw [decodeCommand_nop (by omega), hvd, hchan, hcyc, hrsvd]

theorem decodeCommand_encode_fixed (val : Sample) (chan : Chan) (cyc : BitVec 8) (rsvd : BitVec 4) (m3 m2 : BitVec 1) :
    decodeCommand (encode (.fixed val chan cyc rsvd m3 m2)) = .fixed val chan cyc rsvd m3 m2 := by
  have hw : (encode (.fixed val chan cyc rsvd m3 m2)).toNat = val.toNat * 0x100000 + chan.toNat * 0x10000 +
      cyc.toNat * 0x100 + rsvd.toNat * 0x10 + (m3.toNat * 8 + m2.toNat * 4 + 3) := by
    rw [encode_fixed_toNat]; omega
  have h3 := m3.isLt
  have h2 := m2.isLt
  obtain ⟨hval, hchan, hcyc, hrsvd⟩ := fields_of_toNat hw (by omega)
  rw [decodeCommand_fixed (by omega), hval, hchan, hcyc, hrsvd, extractLsb'_one_eq (b := m3) (by omega),
    extractLsb'_one_eq (b := m2) (by omega)]

theorem decodeCommand_encode_tri (vd : BitVec 12) (chan : Chan) (cyc : BitVec 8) (rsvd : BitVec 4) (m3 : BitVec 1) :
    decodeCommand (encode (.tri vd chan cyc rsvd m3)) = .tri vd chan cyc rsvd m3 := by
  have hw : (encode (.tri vd chan cyc rsvd m3)).toNat = vd.toNat * 0x100000 + chan.toNat * 0x10000 +
      cyc.toNat * 0x100 + rsvd.toNat * 0x10 + (m3.toNat * 8 + 5) := by
    rw [encode_tri_toNat]; omega
  have h3 := m3.isLt
  obtain ⟨hvd, hchan, hcyc, hrsvd⟩ := fields_of_toNat hw (by omega)
  rw [decodeCommand_tri (by omega), hvd, hchan, hcyc, hrsvd, extractLsb'_one_eq (b := m3) (by omega)]

theorem decodeCommand_encode_arb (vd : BitVec 12) (chan : Chan) (cyc : BitVec 8) (rsvd : BitVec 4) :
    decodeCommand (encode (.arb vd chan cyc rsvd)) = .arb vd chan cyc rsvd := by
  have hw := encode_arb_toNat vd chan cyc rsvd
  obtain ⟨hvd, hchan, hcyc, hrsvd⟩ := fields_of_toNat hw (by decide)
  rw [decodeCommand_arb (by omega), hvd, hchan, hcyc, hrsvd]

theorem decodeDacUpdate_encode (chan : Chan) (samp : Sample) :
    decodeDacUpdate (encode (.frameDacUpdate chan samp)) = .ok (.frameDacUpdate chan samp) := by
  have hw := encode_frameDacUpdate_toNat chan samp
  have hc := chan.isLt
  have hs := samp.isLt
  have hopcode : (encode (.frameDacUpdate chan samp)).extractLsb' 24 8 = Config.opcUpdate :=
    BitVec.eq_of_toNat_eq (by rw [extractLsb'_toNat_div, Config.opcUpdate, BitVec.toNat_ofNat]; omega)
  have htag : (encode (.frameDacUpdate chan samp)).extractLsb' 0 8 = Config.tagUpdate :=
    BitVec.eq_of_toNat_eq (by rw [extractLsb'_toNat_div, Config.tagUpdate, BitVec.toNat_ofNat]; omega)
  rw [decodeDacUpdate, if_pos ⟨hopcode, htag⟩, Except.ok.injEq, Instr.frameDacUpdate.injEq]
  constructor <;> apply BitVec.eq_of_toNat_eq <;> rw [extractLsb'_toNat_div] <;> omega

theorem decodeSlot_encode (ignored : Byte) (high low : Sample) :
    decodeSlot (encode (.slot ignored high low)) = .slot ignored high low := by
  have hw := encode_slot_toNat ignored high low
  have hi := ignored.isLt
  have hh := high.isLt
  have hl := low.isLt
  rw [decodeSlot, Instr.slot.injEq]
  refine ⟨?_, ?_, ?_⟩ <;> apply BitVec.eq_of_toNat_eq <;> rw [extractLsb'_toNat_div] <;> omega

/-- Settles O2: each format's decoder reads back every field that the encoder wrote, one lemma per instruction. -/
theorem decodeInvertsEncode : Obligations.DecodeInvertsEncode := by
  intro i _
  cases i with
  | idle rest => exact congrArg Except.ok (decodeCommand_encode_idle rest)
  | nop vd chan cyc rsvd => exact congrArg Except.ok (decodeCommand_encode_nop vd chan cyc rsvd)
  | fixed val chan cyc rsvd m3 m2 => exact congrArg Except.ok (decodeCommand_encode_fixed val chan cyc rsvd m3 m2)
  | tri vd chan cyc rsvd m3 => exact congrArg Except.ok (decodeCommand_encode_tri vd chan cyc rsvd m3)
  | arb vd chan cyc rsvd => exact congrArg Except.ok (decodeCommand_encode_arb vd chan cyc rsvd)
  | encode opcode chan samp tag => exact congrArg Except.ok (decodeFrame_encode opcode chan samp tag)
  | frameDacUpdate chan samp => exact decodeDacUpdate_encode chan samp
  | slot ignored high low => exact congrArg Except.ok (decodeSlot_encode ignored high low)

/-! ## Encode of decode -/

theorem encode_decodeCommand (w : Word32) : encode (decodeCommand w) = w := by
  have hlt := w.isLt
  apply BitVec.eq_of_toNat_eq
  rcases word_cases w with hidle | hfixed | htri | harb | hnop
  · rw [decodeCommand_idle hidle, encode_idle_toNat, extractLsb'_toNat_div]; omega
  · rw [decodeCommand_fixed hfixed, encode_fixed_toNat, valueOrDelay_toNat, channelSelector_toNat, cycleCount_toNat,
      unnamedBits_toNat, extractLsb'_toNat_div, extractLsb'_toNat_div]; omega
  · rw [decodeCommand_tri htri, encode_tri_toNat, valueOrDelay_toNat, channelSelector_toNat, cycleCount_toNat,
      unnamedBits_toNat, extractLsb'_toNat_div]; omega
  · rw [decodeCommand_arb harb, encode_arb_toNat, valueOrDelay_toNat, channelSelector_toNat, cycleCount_toNat,
      unnamedBits_toNat]; omega
  · rw [decodeCommand_nop hnop, encode_nop_toNat, valueOrDelay_toNat, channelSelector_toNat, cycleCount_toNat,
      unnamedBits_toNat]; omega

theorem encode_decodeFrame (w : Word32) : encode (decodeFrame w) = w := by
  have hlt := w.isLt
  apply BitVec.eq_of_toNat_eq
  rw [decodeFrame, encode_encode_toNat, extractLsb'_toNat_div, extractLsb'_toNat_div, extractLsb'_toNat_div,
    extractLsb'_toNat_div]
  omega

theorem encode_decodeSlot (w : Word32) : encode (decodeSlot w) = w := by
  have hlt := w.isLt
  apply BitVec.eq_of_toNat_eq
  rw [decodeSlot, encode_slot_toNat, extractLsb'_toNat_div, extractLsb'_toNat_div, extractLsb'_toNat_div]
  omega

/-- A DAC-update instruction is the frame with the class's opcode and tag (R57). -/
theorem encode_frameDacUpdate_eq (chan : Chan) (samp : Sample) :
    encode (.frameDacUpdate chan samp) = encode (.encode Config.opcUpdate chan samp Config.tagUpdate) := by
  apply BitVec.eq_of_toNat_eq
  rw [encode_frameDacUpdate_toNat, encode_encode_toNat]
  rfl

theorem encode_of_decodeDacUpdate {w : Word32} {i : Instr} (h : decodeDacUpdate w = .ok i) : encode i = w := by
  rw [decodeDacUpdate] at h
  split at h
  next hclass =>
    obtain ⟨hopcode, htag⟩ := hclass
    cases h
    rw [encode_frameDacUpdate_eq, ← hopcode, ← htag]
    exact encode_decodeFrame w
  next => cases h

/-- Settles O3: each decoder's fields cover the word, and a DAC-update word is the frame that its class fixes. -/
theorem encodeInvertsDecode : Obligations.EncodeInvertsDecode :=
  ⟨encode_decodeCommand, encode_decodeFrame, encode_decodeSlot, fun _ _ => encode_of_decodeDacUpdate⟩

/-! ## The operation map (30_encoding.md section 3) -/

theorem row_decodeCommand_mem (w : Word32) : (decodeCommand w).row ∈ operationMap := by
  rcases word_cases w with hidle | hfixed | htri | harb | hnop
  · rw [decodeCommand_idle hidle]; simp [Instr.row, operationMap]
  · rw [decodeCommand_fixed hfixed]; simp [Instr.row, operationMap]
  · rw [decodeCommand_tri htri]; simp [Instr.row, operationMap]
  · rw [decodeCommand_arb harb]; simp [Instr.row, operationMap]
  · rw [decodeCommand_nop hnop]; simp [Instr.row, operationMap]

/-- The word of every instruction has its own row's fixed bits. -/
theorem row_selects_encode (i : Instr) : i.row.selects (encode i) = true :=
  match i with
  | .idle .. => TableRow.idle ..
  | .nop .. => TableRow.nop ..
  | .fixed .. => TableRow.fixed ..
  | .tri .. => TableRow.tri ..
  | .arb .. => TableRow.arb ..
  | .encode .. => TableRow.encode ..
  | .frameDacUpdate .. => TableRow.frameDacUpdate ..
  | .slot .. => TableRow.slot ..

/-- A word is selected by its own operation's row, because it is that operation's word. -/
theorem row_decodeCommand_selects (w : Word32) : (decodeCommand w).row.selects w = true := by
  have h := row_selects_encode (decodeCommand w)
  rwa [encode_decodeCommand] at h

/-- Any two rows of the map differ in a bit that both fix. -/
theorem operationMap_disjoint : ∀ r ∈ operationMap, ∀ r' ∈ operationMap,
    r.pattern &&& r'.mask = r'.pattern &&& r.mask → r = r' := by decide

/-- Two rows that select one word agree in every bit that both fix. -/
theorem pattern_and_mask_eq_of_selects {r r' : OpRow} {w : Word32} (h : r.selects w = true) (h' : r'.selects w = true) :
    r.pattern &&& r'.mask = r'.pattern &&& r.mask := by
  rw [OpRow.selects, beq_iff_eq] at h h'
  rw [← h, ← h', BitVec.and_assoc, BitVec.and_assoc, BitVec.and_comm r.mask]

/-- Settles O4: the row of the decoded operation selects the word, and rows of the map that select one word are equal. -/
theorem operationMapSelectsOneRow : Obligations.OperationMapSelectsOneRow := by
  intro w
  have hmem := row_decodeCommand_mem w
  have hsel := row_decodeCommand_selects w
  refine ⟨hmem, fun r hr => ⟨fun h => ?_, fun h => ?_⟩⟩
  · exact operationMap_disjoint r hr _ hmem (pattern_and_mask_eq_of_selects h hsel)
  · rw [h, hsel]

/-! ## The assembler's words (30_encoding.md section 7) -/

/-- A field placed above bits that it does not share: the word is the sum. -/
theorem field_or_toNat {n k : Nat} (a : BitVec n) (b : Word32) (hfit : n + k ≤ 32) (hb : b.toNat < 2 ^ k) :
    ((a.setWidth 32 <<< k) ||| b).toNat = a.toNat * 2 ^ k + b.toNat := by
  have ha : a.toNat * 2 ^ k < 2 ^ 32 := calc
    a.toNat * 2 ^ k < 2 ^ n * 2 ^ k := Nat.mul_lt_mul_of_pos_right a.isLt (Nat.two_pow_pos k)
    _ = 2 ^ (n + k) := (Nat.pow_add ..).symm
    _ ≤ 2 ^ 32 := Nat.pow_le_pow_right (by decide) hfit
  have hle : a.toNat < 2 ^ 32 := a.isLt.trans_le (Nat.pow_le_pow_right (by decide) (by omega))
  rw [BitVec.toNat_or, BitVec.toNat_shiftLeft, BitVec.toNat_setWidth, Nat.mod_eq_of_lt hle,
    Nat.mod_eq_of_lt (by rwa [Nat.shiftLeft_eq]), shiftLeft_or_eq_add _ _ k hb]

theorem assemble_nop : assemble .nop = encode (.nop 0#12 0#4 0#8 0#4) := by decide

theorem assemble_fixed (ch : Chan) (val : Sample) :
    assemble (.fixed ch val) = encode (.fixed val ch 0#8 0#4 0#1 0#1) := by
  have hc := ch.isLt
  have hlow : ((ch.setWidth 32 <<< 16) ||| 0x3#32).toNat = ch.toNat * 2 ^ 16 + 3 :=
    field_or_toNat ch 0x3#32 (by decide) (by decide)
  apply BitVec.eq_of_toNat_eq
  rw [assemble, BitVec.or_assoc, field_or_toNat val _ (by decide) (by rw [hlow]; omega), hlow, encode_fixed_toNat]
  simp only [BitVec.toNat_ofNat, Nat.reducePow, Nat.reduceMod]
  omega

theorem assemble_tri (ch : Chan) (cyc : BitVec 8) (vd : BitVec 12) :
    assemble (.tri ch cyc vd) = encode (.tri vd ch cyc 0#4 0#1) := by
  have hc := ch.isLt
  have hy := cyc.isLt
  have hlow : ((cyc.setWidth 32 <<< 8) ||| 0x5#32).toNat = cyc.toNat * 2 ^ 8 + 5 :=
    field_or_toNat cyc 0x5#32 (by decide) (by decide)
  have hmid : ((ch.setWidth 32 <<< 16) ||| ((cyc.setWidth 32 <<< 8) ||| 0x5#32)).toNat =
      ch.toNat * 2 ^ 16 + (cyc.toNat * 2 ^ 8 + 5) := by
    rw [field_or_toNat ch _ (by decide) (by rw [hlow]; omega), hlow]
  apply BitVec.eq_of_toNat_eq
  rw [assemble, BitVec.or_assoc, BitVec.or_assoc, field_or_toNat vd _ (by decide) (by rw [hmid]; omega), hmid,
    encode_tri_toNat]
  simp only [BitVec.toNat_ofNat, Nat.reducePow, Nat.reduceMod]
  omega

theorem assemble_arb (ch : Chan) (cyc : BitVec 8) : assemble (.arb ch cyc) = encode (.arb 0#12 ch cyc 0#4) := by
  have hy := cyc.isLt
  have hlow : ((cyc.setWidth 32 <<< 8) ||| 0x9#32).toNat = cyc.toNat * 2 ^ 8 + 9 :=
    field_or_toNat cyc 0x9#32 (by decide) (by decide)
  apply BitVec.eq_of_toNat_eq
  rw [assemble, BitVec.or_assoc, field_or_toNat ch _ (by decide) (by rw [hlow]; omega), hlow, encode_arb_toNat]
  simp only [BitVec.toNat_ofNat, Nat.reducePow, Nat.reduceMod]
  omega

/-- Every canonical command is the word of an assembler line. -/
theorem canonical_assembles {i : Instr} (h : i.canonical = true) :
    ∃ a : Asm, assemble a = encode i ∧ ∀ w, a ≠ .word w := by
  cases i with
  | nop vd chan cyc rsvd =>
    simp only [Instr.canonical, Bool.and_eq_true, beq_iff_eq] at h
    obtain ⟨⟨⟨rfl, rfl⟩, rfl⟩, rfl⟩ := h
    exact ⟨.nop, assemble_nop, fun _ => Asm.noConfusion⟩
  | fixed val chan cyc rsvd m3 m2 =>
    simp only [Instr.canonical, Bool.and_eq_true, beq_iff_eq] at h
    obtain ⟨⟨⟨rfl, rfl⟩, rfl⟩, rfl⟩ := h
    exact ⟨.fixed chan val, assemble_fixed .., fun _ => Asm.noConfusion⟩
  | tri vd chan cyc rsvd m3 =>
    simp only [Instr.canonical, Bool.and_eq_true, beq_iff_eq] at h
    obtain ⟨rfl, rfl⟩ := h
    exact ⟨.tri chan cyc vd, assemble_tri .., fun _ => Asm.noConfusion⟩
  | arb vd chan cyc rsvd =>
    simp only [Instr.canonical, Bool.and_eq_true, beq_iff_eq] at h
    obtain ⟨rfl, rfl⟩ := h
    exact ⟨.arb chan cyc, assemble_arb .., fun _ => Asm.noConfusion⟩
  | idle rest => cases h
  | encode opcode chan samp tag => cases h
  | frameDacUpdate chan samp => cases h
  | slot ignored high low => cases h

/-- Settles O8: an assembler line's word is the encoder's word of a command whose other fields are 0, and so decodes to it. -/
theorem assembledCommandsDecode : Obligations.AssembledCommandsDecode := by
  refine ⟨?_, fun ch val => ?_, fun ch cyc vd => ?_, fun ch cyc => ?_, fun i => canonical_assembles⟩
  · rw [assemble_nop, decodeCommand_encode_nop]
  · rw [assemble_fixed, decodeCommand_encode_fixed]
  · rw [assemble_tri, decodeCommand_encode_tri]
  · rw [assemble_arb, decodeCommand_encode_arb]

/-! ## The inverse of the Wave Encoder (41_wave_encoder.md section 2) -/

theorem frameFields_waveEncode (chan : Chan) (samp : Sample) (opcode tag : Byte) :
    frameFields (waveEncode chan samp opcode tag) = { chan := chan, samp := samp, opcode := opcode, tag := tag } := by
  have hs := samp.isLt
  rw [FrameContents.mk.injEq]
  refine ⟨BitVec.eq_of_toNat_eq ?_, BitVec.eq_of_toNat_eq ?_, rfl, rfl⟩
  · rw [frameFields_chan_toNat, waveEncode_f1_toNat]; omega
  · rw [frameFields_samp_toNat, waveEncode_f1_toNat, waveEncode_f2_toNat]; omega

theorem waveEncode_frameFields (f : Frame) :
    waveEncode (frameFields f).chan (frameFields f).samp (frameFields f).opcode (frameFields f).tag = f := by
  have h2 := f.f2.isLt
  rw [Frame.mk.injEq]
  refine ⟨rfl, BitVec.eq_of_toNat_eq ?_, BitVec.eq_of_toNat_eq ?_, rfl⟩
  · rw [waveEncode_f1_toNat, frameFields_chan_toNat, frameFields_samp_toNat]; omega
  · rw [waveEncode_f2_toNat, frameFields_samp_toNat]; omega

/-- Channel and sample as R87 reads them back from bytes 1 and 2. -/
theorem waveEncode_recover (chan : Chan) (samp : Sample) (opcode tag : Byte) :
    ((waveEncode chan samp opcode tag).f1 >>> 4).toNat = chan.toNat ∧
      ((waveEncode chan samp opcode tag).f1 &&& 0xF#8).toNat <<< 8 ||| (waveEncode chan samp opcode tag).f2.toNat =
        samp.toNat := by
  have hs := samp.isLt
  have hlow : ((waveEncode chan samp opcode tag).f1 &&& 0xF#8).toNat = (chan.toNat * 16 + samp.toNat / 256) % 16 := by
    rw [BitVec.toNat_and, waveEncode_f1_toNat]
    exact Nat.and_two_pow_sub_one_eq_mod _ 4
  constructor
  · rw [BitVec.toNat_ushiftRight, Nat.shiftRight_eq_div_pow, waveEncode_f1_toNat]; omega
  · rw [hlow, waveEncode_f2_toNat, shiftLeft_or_eq_add _ _ 8 (by omega)]; omega

/-- Settles O11: `frameFields` is the encoder's inverse on both sides, so the encoder is a bijection. -/
theorem encoderIsInvertible : Obligations.EncoderIsInvertible := by
  refine ⟨fun chan samp opcode tag => ?_, waveEncode_frameFields, ?_⟩
  · obtain ⟨hchan, hsamp⟩ := waveEncode_recover chan samp opcode tag
    exact ⟨hchan, hsamp, rfl, rfl, frameFields_waveEncode ..⟩
  · exact Function.bijective_iff_has_inverse.mpr
      ⟨frameFields, fun x => frameFields_waveEncode x.chan x.samp x.opcode x.tag, waveEncode_frameFields⟩

end Sys2Proof.Proofs

/-!
What the instructions do, each in full (40_command_dispatch.md, 41_wave_encoder.md, 42_fixed_generator.md,
43_triangle_generator.md, 44_arbitrary_generator.md), and the dispatch of the word that a ready block polls.
-/
namespace Sys2Proof.Proofs

open Sys2Proof.Machine Sys2Proof.Safety Sys2Proof.Laws

/-! ## The eight instructions -/

/-- Settles O14: IDLE is the identity. -/
theorem idleChangesNothing : Obligations.IdleChangesNothing := fun _ _ => rfl

/-- Settles O15 by the equation for NOP. -/
theorem nopClearsRegister : Obligations.NopClearsRegister := execNop_eq

/-- Settles O16 by the equation for FIXED. -/
theorem fixedSendsOneFrame : Obligations.FixedSendsOneFrame := execFixed_eq

/-- The whole effect of TRI: the poll, the latches, the sequencer started. -/
theorem execTri_eq (vd : BitVec 12) (chan : Chan) (cyc : BitVec 8) (rsvd : BitVec 4) (m3 : BitVec 1) (s : State) :
    execTri vd chan cyc rsvd m3 s = .next { s with
      trace := s.trace ++ [.poll s.cmdreg]
      op := { mode := .triangle, chan := chan, vd := vd, cycles := cyc }
      dispState := .running
      tri := TriRegs.started chan cyc.toNat (delayOf vd) } := rfl

/-- Settles O17: the registers of a start, written out. -/
theorem triStartsSequencer : Obligations.TriStartsSequencer := execTri_eq

/-- The whole effect of ARB: the poll, the latches, the slot index at 0. -/
theorem execArb_eq (vd : BitVec 12) (chan : Chan) (cyc : BitVec 8) (rsvd : BitVec 4) (s : State) :
    execArb vd chan cyc rsvd s = .next { s with
      trace := s.trace ++ [.poll s.cmdreg]
      op := { mode := .arbitrary, chan := chan, vd := vd, cycles := cyc }
      dispState := .running
      arbIndex := 0 } := rfl

/-- Settles O18 by the equation for ARB. -/
theorem arbStartsAtSlotZero : Obligations.ArbStartsAtSlotZero := execArb_eq

/-- Settles O19: one frame is sent, with the class's opcode and tag. -/
theorem dacUpdateSendsItsFrame : Obligations.DacUpdateSendsItsFrame := fun _ _ _ => rfl

/-- Settles O20: two frames are sent one after the other. -/
theorem slotSendsHighThenLow : Obligations.SlotSendsHighThenLow := by
  intro ignored high low s
  simp [exec, execSlot, State.sendFrame, State.encodeFrame, State.transfer, State.emit]

/-- Settles O21: each instruction's next state, looked at field by field. -/
theorem instructionsKeepTheRest : Obligations.InstructionsKeepTheRest := by
  intro i s t h
  cases i <;> cases h
  case idle => exact ⟨⟨rfl, rfl, rfl, rfl, rfl, rfl, fun _ => rfl⟩, rfl⟩
  case nop => exact ⟨⟨rfl, rfl, rfl, rfl, rfl, rfl, fun _ => rfl⟩, rfl, rfl, rfl⟩
  case fixed => exact ⟨⟨rfl, rfl, rfl, rfl, rfl, rfl, fun _ => rfl⟩, rfl, rfl⟩
  case tri => exact ⟨⟨rfl, rfl, rfl, rfl, rfl, rfl, fun _ => rfl⟩, rfl, rfl, rfl⟩
  case arb => exact ⟨⟨rfl, rfl, rfl, rfl, rfl, rfl, fun _ => rfl⟩, rfl, rfl, rfl⟩
  case encode => exact ⟨⟨rfl, rfl, rfl, rfl, rfl, rfl, fun _ => rfl⟩, rfl, rfl, rfl, rfl, rfl, rfl⟩
  case frameDacUpdate => exact ⟨⟨rfl, rfl, rfl, rfl, rfl, rfl, fun _ => rfl⟩, rfl, rfl, rfl, rfl, rfl⟩
  case slot => exact ⟨⟨rfl, rfl, rfl, rfl, rfl, rfl, fun _ => rfl⟩, rfl, rfl, rfl, rfl, rfl⟩

/-! ## Where an instruction comes from -/

/-- Settles O22: a ready block polls and executes what it reads. -/
theorem stepRunsDecodedCommand : Obligations.StepRunsDecodedCommand := fun _ => step_of_ready

theorem decodeTableWord_eq_some {nbits w : Nat} {i : Instr} (h : decodeTableWord nbits w = some i) :
    decodeCommand (BitVec.ofNat 32 w) = i := by
  rw [decodeTableWord] at h
  split at h
  · exact Option.some.inj h
  · cases h

/-- Settles O23: the state with the word placed is ready, and the word is the one its register holds. -/
theorem stepRunsPlacedWord : Obligations.StepRunsPlacedWord := by
  intro s nbits w i hwf hdecode
  have hready : Ready (s.withFetchWord nbits w) := ⟨⟨hwf, rfl, rfl, rfl⟩, rfl⟩
  rw [step_of_ready hready, ← decodeTableWord_eq_some hdecode]
  rfl

/-- In an arbitrary run a step of the machine is the generator's. -/
theorem step_of_inArbitrary {s : State} (h : InArbitrary s) : step s = s.arbStep := by
  obtain ⟨⟨hwf, hfront, hboot, hagenda⟩, hrunning, hmode⟩ := h
  rw [step_of_agenda_nil hwf hagenda, blockStep_running hboot hfront hrunning, runStep_arbitrary hmode]

/-- Settles O24: the generator executes the slot it read, and the port move is ENCODE. -/
theorem stepRunsSlotAndPortInstructions : Obligations.StepRunsSlotAndPortInstructions := by
  refine ⟨fun s hrun hlen => ?_, fun s opcode chan samp tag rest hwf hfront hagenda => ?_⟩
  · refine ⟨_, rfl, ?_⟩
    rw [step_of_inArbitrary hrun, State.arbStep, if_neg hlen]
    rfl
  · rw [step_of_agenda_cons hwf hagenda, applyMove, if_neg (by simp [hfront])]

/-! ## The dispatch of a busy word -/

/-- Whatever the operation, executing a busy word loads the latches from its fields. -/
theorem exec_busy_latches {w : Word32} (h : w.toNat % 2 = 1) (s : State) :
    ∃ t, exec (decodeCommand w) s = .next t ∧ t.op = latchesOf w := by
  rcases word_cases w with hidle | hfixed | htri | harb | hnop
  · omega
  · rw [decodeCommand_fixed hfixed, latchesOf, modeOf_fixed hfixed]; exact ⟨_, rfl, rfl⟩
  · rw [decodeCommand_tri htri, latchesOf, modeOf_triangle htri]; exact ⟨_, rfl, rfl⟩
  · rw [decodeCommand_arb harb, latchesOf, modeOf_arbitrary harb]; exact ⟨_, rfl, rfl⟩
  · rw [decodeCommand_nop hnop, latchesOf, modeOf_noop hnop]; exact ⟨_, rfl, rfl⟩

theorem busy_iff (s : State) : s.busy = true ↔ s.cmdreg.toNat % 2 = 1 := by
  rw [State.busy, busyBit_eq, decide_eq_true_eq]

/-- A ready block with a busy word answers a state with that word's latches. -/
theorem step_ready_latches {s : State} (hready : Ready s) (hbusy : s.busy = true) :
    ∃ t, step s = .next t ∧ t.op = latchesOf s.cmdreg := by
  rw [step_of_ready hready]
  exact exec_busy_latches ((busy_iff s).mp hbusy) s

/-- A flag of the word as the spec writes it, `(w >> i) & 1 = 1`. -/
theorem shift_and_one_eq_iff (w : Word32) (i : Nat) : (w >>> i) &&& 1#32 = 1#32 ↔ w.getLsbD i = true := by
  refine (and_lowMask_eq_iff (w >>> i) 1 1 (by decide) (by decide)).trans ?_
  rw [BitVec.toNat_ushiftRight, Nat.shiftRight_eq_div_pow, getLsbD_eq_decide, decide_eq_true_eq, Nat.pow_one]

/-- Settles O5: the mode latch is the word's mode, whose flags are the shifted bits. -/
theorem acceptedModeFollowsPriority : Obligations.AcceptedModeFollowsPriority := by
  intro s hready hbusy
  obtain ⟨t, ht, hop⟩ := step_ready_latches hready hbusy
  refine ⟨t, ht, ?_⟩
  simp only [shift_and_one_eq_iff]
  exact congrArg OpLatches.mode hop

theorem step_ready_idle {s : State} (hready : Ready s) (hidle : s.cmdreg.toNat % 2 = 0) : step s = .next s := by
  rw [step_of_ready hready, decodeCommand_idle hidle]
  rfl

/-- A no-op word's dispatch, in full (R75). -/
theorem step_ready_nop {s : State} (hready : Ready s) (hnop : s.cmdreg.toNat % 16 = 1) :
    step s = .next { s with
      trace := s.trace ++ [.poll s.cmdreg, .clear]
      op := latchesOf s.cmdreg
      cmdreg := 0#32 } :=
  nopDispatch s hready ((and_lowMask_eq_iff s.cmdreg 4 1 (by decide) (by decide)).mpr hnop)

/-- A fixed word's dispatch, in full (R95). -/
theorem step_ready_fixed {s : State} (hready : Ready s) (hfixed : s.cmdreg.toNat % 4 = 3) :
    step s = .next { s with
      trace := s.trace ++ [.poll s.cmdreg,
        .tx (waveEncode (latchesOf s.cmdreg).chan (latchesOf s.cmdreg).vd 0x03#8 0x55#8), .clear]
      op := latchesOf s.cmdreg
      fb := waveEncode (latchesOf s.cmdreg).chan (latchesOf s.cmdreg).vd 0x03#8 0x55#8
      cmdreg := 0#32 } := by
  obtain ⟨-, h⟩ := fixedDispatch s hready ((and_lowMask_eq_iff s.cmdreg 2 3 (by decide) (by decide)).mpr hfixed)
  exact h

/-- A triangle word's dispatch, in full (R101). -/
theorem step_ready_triangle {s : State} (hready : Ready s) (htri : s.cmdreg.toNat % 8 = 5) :
    step s = .next { s with
      trace := s.trace ++ [.poll s.cmdreg]
      op := latchesOf s.cmdreg
      dispState := .running
      tri := TriRegs.started (channelSelector s.cmdreg) (cycleCount s.cmdreg).toNat
        (delayOf (valueOrDelay s.cmdreg)) } := by
  rw [step_of_ready hready, decodeCommand_tri htri, exec, execTri_eq, latchesOf, modeOf_triangle htri]

/-- The start port of the core alone (R108). -/
theorem step_triStart {s : State} {chan : Chan} {cycles delay : Nat} {rest : List Move} (hwf : s.cfg.wf = true)
    (hfront : s.cfg.frontEnd = false) (hagenda : s.agenda = .triStart chan cycles delay :: rest) :
    step s = .next { s with
      agenda := rest
      tri := if s.tri.phase = .idle then TriRegs.started chan cycles delay else s.tri } := by
  rw [step_of_agenda_cons hwf hagenda, applyMove, if_neg (by simp [hfront]), State.triStartPort]
  by_cases hidle : s.tri.phase = .idle
  · rw [if_pos hidle, if_pos hidle]; rfl
  · rw [if_neg hidle, if_neg hidle]

/-- Settles O28: both starts load the registers of `TriRegs.started`. -/
theorem startLoadsSequencer : Obligations.StartLoadsSequencer :=
  ⟨fun s hready hword =>
      step_ready_triangle hready ((and_lowMask_eq_iff s.cmdreg 3 5 (by decide) (by decide)).mp hword),
    fun _ _ _ _ _ hwf hfront hagenda => step_triStart hwf hfront hagenda⟩

/-- An arbitrary word's dispatch, in full (R120). -/
theorem step_ready_arbitrary {s : State} (hready : Ready s) (harb : s.cmdreg.toNat % 16 = 9) :
    step s = .next { s with
      trace := s.trace ++ [.poll s.cmdreg]
      op := latchesOf s.cmdreg
      dispState := .running
      arbIndex := 0 } := by
  rw [step_of_ready hready, decodeCommand_arb harb, exec, execArb_eq, latchesOf, modeOf_arbitrary harb]

/-- Settles O29: the start is ARB's; a step of the run touches neither the latches nor the dispatcher. -/
theorem arbDispatchKeepsChannel : Obligations.ArbDispatchKeepsChannel := by
  refine ⟨fun s hready hword =>
    step_ready_arbitrary hready ((and_lowMask_eq_iff s.cmdreg 4 9 (by decide) (by decide)).mp hword),
    fun s t hrun hstep => ?_⟩
  rw [step_of_inArbitrary hrun] at hstep
  rcases arbStep_spec s with ⟨-, h⟩ | ⟨-, v, d, h, -⟩ <;> cases h.symm.trans hstep
  · exact ⟨rfl, hrun⟩
  · exact ⟨rfl, hrun⟩

/-! ## Bits 7:4 of a command word (30_encoding.md section 4) -/

/-- A field above bit 7 does not see bits 7:4. -/
theorem extractLsb'_and_namedBits {start n : Nat} (w : Word32) (h8 : 8 ≤ start) (h32 : start + n ≤ 32) :
    (w &&& 0xFFFFFF0F#32).extractLsb' start n = w.extractLsb' start n := by
  have hmask : ∀ j < 32, 8 ≤ j → (0xFFFFFF0F#32).getLsbD j = true := by decide
  apply BitVec.eq_of_getLsbD_eq
  intro i hi
  rw [BitVec.getLsbD_extractLsb', BitVec.getLsbD_extractLsb', BitVec.getLsbD_and,
    hmask (start + i) (by omega) (by omega), Bool.and_true]

section
variable {w1 w2 : Word32} (h : w1 &&& 0xFFFFFF0F#32 = w2 &&& 0xFFFFFF0F#32)
include h

theorem extractLsb'_eq_of_namedBits_eq {start n : Nat} (h8 : 8 ≤ start) (h32 : start + n ≤ 32) :
    w1.extractLsb' start n = w2.extractLsb' start n := by
  rw [← extractLsb'_and_namedBits w1 h8 h32, ← extractLsb'_and_namedBits w2 h8 h32, h]

/-- The low four bits, which choose the operation, are among the named ones. -/
theorem toNat_mod_eq_of_namedBits_eq : w1.toNat % 16 = w2.toNat % 16 := by
  have hlow (w : Word32) : ((w &&& 0xFFFFFF0F#32) &&& 0xF#32).toNat = w.toNat % 16 := by
    rw [BitVec.and_assoc]
    exact and_lowMask_toNat w 4 (by decide)
  rw [← hlow w1, ← hlow w2, h]

theorem modeOf_eq_of_namedBits_eq : modeOf w1 = modeOf w2 := by
  have hlow := toNat_mod_eq_of_namedBits_eq h
  simp only [modeOf, modeFlag1_eq, modeFlag2_eq, modeFlag3_eq, show w1.toNat / 2 % 2 = w2.toNat / 2 % 2 by omega,
    show w1.toNat / 4 % 2 = w2.toNat / 4 % 2 by omega, show w1.toNat / 8 % 2 = w2.toNat / 8 % 2 by omega]

/-- No latch is loaded from bits 7:4. -/
theorem latchesOf_eq_of_namedBits_eq : latchesOf w1 = latchesOf w2 := by
  rw [latchesOf, latchesOf, modeOf_eq_of_namedBits_eq h, channelSelector, channelSelector, valueOrDelay, valueOrDelay,
    cycleCount, cycleCount, extractLsb'_eq_of_namedBits_eq h (start := 16) (by decide) (by decide),
    extractLsb'_eq_of_namedBits_eq h (start := 20) (by decide) (by decide),
    extractLsb'_eq_of_namedBits_eq h (start := 8) (by decide) (by decide)]

end

/-- Settles O9: both words choose the same operation and load the same latches, and the dispatch of an operation looks at
nothing else of the word. -/
theorem unnamedBitsAreIgnored : Obligations.UnnamedBitsAreIgnored := by
  intro s w1 w2 hready h
  have hlow := toNat_mod_eq_of_namedBits_eq h
  have hlatches := latchesOf_eq_of_namedBits_eq h
  have hready1 : Ready { s with cmdreg := w1 } := hready
  have hready2 : Ready { s with cmdreg := w2 } := hready
  rcases word_cases w1 with hidle | hfixed | htri | harb | hnop
  · refine ⟨_, _, [], [], step_ready_idle hready1 hidle, step_ready_idle hready2 (by dsimp only; omega), ?_⟩
    exact ⟨(List.append_nil _).symm, (List.append_nil _).symm, rfl, rfl, h, rfl, rfl, rfl, rfl, rfl⟩
  · refine ⟨_, _, _, _, step_ready_fixed hready1 hfixed, step_ready_fixed hready2 (by dsimp only; omega), rfl, rfl, ?_⟩
    simp [isPoll, hlatches]
  · refine ⟨_, _, _, _, step_ready_triangle hready1 htri, step_ready_triangle hready2 (by dsimp only; omega), rfl, rfl,
      rfl, rfl, h, hlatches, ?_, rfl, rfl, rfl⟩
    exact congrArg (fun l : OpLatches => TriRegs.started l.chan l.cycles.toNat (delayOf l.vd)) hlatches
  · exact ⟨_, _, _, _, step_ready_arbitrary hready1 harb, step_ready_arbitrary hready2 (by dsimp only; omega), rfl, rfl,
      rfl, rfl, h, hlatches, rfl, rfl, rfl, rfl⟩
  · exact ⟨_, _, _, _, step_ready_nop hready1 hnop, step_ready_nop hready2 (by dsimp only; omega), rfl, rfl,
      rfl, rfl, rfl, hlatches, rfl, rfl, rfl, rfl⟩

end Sys2Proof.Proofs

/-!
Everything a step can do, said once: the cases of the block's step and of an outside agent's move, and what each leaves
alone. From it the statements that hold of every step: the parameters and the trace (00_scope.md sections 4 and 5), the
waveform memory (20_memory.md), and that the block is never stuck (60_exceptions.md section 12).
-/
namespace Sys2Proof.Proofs

open Sys2Proof.Machine Sys2Proof.Safety Sys2Proof.Laws

/-! ## The cases of the block's step -/

/-- Past boot, the front end's dispatcher is in POLLING. -/
structure Polls (s : State) : Prop where
  boot : s.boot = .done
  front : s.cfg.frontEnd = true
  disp : s.dispState = .polling

/-- Past boot, the front end's dispatcher is in RUNNING. -/
structure Runs (s : State) : Prop where
  boot : s.boot = .done
  front : s.cfg.frontEnd = true
  disp : s.dispState = .running

/-- The states that a step of the block from `s` can answer, with the condition of each. -/
inductive BlockCase (s : State) : State → Prop
  | boot (hboot : s.boot ≠ .done) : BlockCase s s.bootStep
  | idlePoll (hpolls : Polls s) (hbusy : s.busy = false) : BlockCase s s
  | nop (hpolls : Polls s) (hbusy : s.busy = true) (hmode : modeOf s.cmdreg = .noop) :
      BlockCase s (s.accept (latchesOf s.cmdreg)).complete
  | fixed (hpolls : Polls s) (hbusy : s.busy = true) (hmode : modeOf s.cmdreg = .fixed) :
      BlockCase s ((s.accept (latchesOf s.cmdreg)).sendFrame (channelSelector s.cmdreg) (valueOrDelay s.cmdreg)
        Config.opcUpdate Config.tagUpdate).complete
  | triStart (hpolls : Polls s) (hbusy : s.busy = true) (hmode : modeOf s.cmdreg = .triangle) :
      BlockCase s ((s.accept (latchesOf s.cmdreg)).startTri (channelSelector s.cmdreg) (cycleCount s.cmdreg).toNat
        (delayOf (valueOrDelay s.cmdreg)))
  | arbStart (hpolls : Polls s) (hbusy : s.busy = true) (hmode : modeOf s.cmdreg = .arbitrary) :
      BlockCase s { s.accept (latchesOf s.cmdreg) with arbIndex := 0 }
  | clear (hruns : Runs s)
      (hmode : s.op.mode = .noop ∨ s.op.mode = .fixed ∨ (s.op.mode = .triangle ∧ s.tri.phase = .idle)) :
      BlockCase s s.complete
  | frame (hruns : Runs s) (hmode : s.op.mode = .triangle) (hphase : s.tri.phase ≠ .idle) : BlockCase s s.triStep
  | emptyBuffer (hruns : Runs s) (hmode : s.op.mode = .arbitrary) (hlen : s.cfg.arbLen = 0) : BlockCase s s
  | slot (hruns : Runs s) (hmode : s.op.mode = .arbitrary) (hlen : s.cfg.arbLen ≠ 0) (v : Word32) (d : Nat) :
      BlockCase s { s with
        draws := d
        trace := s.trace ++ [.slotRd s.arbIndex v,
          .tx (waveEncode s.op.chan (v.extractLsb' 12 12) s.cfg.opcArb s.cfg.tagArb),
          .tx (waveEncode s.op.chan (v.extractLsb' 0 12) s.cfg.opcArb s.cfg.tagArb)]
        fb := waveEncode s.op.chan (v.extractLsb' 0 12) s.cfg.opcArb s.cfg.tagArb
        arbIndex := (s.arbIndex + 1) % s.cfg.arbLen }
  | coreAtRest (hboot : s.boot = .done) (hfront : s.cfg.frontEnd = false) (hphase : s.tri.phase = .idle) : BlockCase s s
  | coreFrame (hboot : s.boot = .done) (hfront : s.cfg.frontEnd = false) (hphase : s.tri.phase ≠ .idle) :
      BlockCase s s.triStep

theorem blockStep_boot {s : State} (hboot : s.boot ≠ .done) : blockStep s = .next s.bootStep := by
  rw [blockStep]
  cases h : s.boot with
  | opening => rfl
  | configuring => rfl
  | sending left => rfl
  | done => exact absurd h hboot

/-- The cases of a poll: an idle word, or the dispatch of one of the four operations (R70, R74). -/
theorem poll_cases {s t : State} (hpolls : Polls s) (h : exec (decodeCommand s.cmdreg) s = .next t) : BlockCase s t := by
  have hbusy := busy_iff s
  rcases word_cases s.cmdreg with hidle | hfixed | htri | harb | hnop
  · rw [decodeCommand_idle hidle] at h
    cases h
    exact .idlePoll hpolls (by rw [← Bool.not_eq_true, hbusy]; omega)
  · have hcase := BlockCase.fixed hpolls (hbusy.mpr (by omega)) (modeOf_fixed hfixed)
    rw [latchesOf, modeOf_fixed hfixed] at hcase
    rw [decodeCommand_fixed hfixed] at h
    cases h
    exact hcase
  · have hcase := BlockCase.triStart hpolls (hbusy.mpr (by omega)) (modeOf_triangle htri)
    rw [latchesOf, modeOf_triangle htri] at hcase
    rw [decodeCommand_tri htri] at h
    cases h
    exact hcase
  · have hcase := BlockCase.arbStart hpolls (hbusy.mpr (by omega)) (modeOf_arbitrary harb)
    rw [latchesOf, modeOf_arbitrary harb] at hcase
    rw [decodeCommand_arb harb] at h
    cases h
    exact hcase
  · have hcase := BlockCase.nop hpolls (hbusy.mpr (by omega)) (modeOf_noop hnop)
    rw [latchesOf, modeOf_noop hnop] at hcase
    rw [decodeCommand_nop hnop] at h
    cases h
    exact hcase

/-- The cases of a step while a command is carried out (R74, R78). -/
theorem run_cases {s t : State} (hruns : Runs s) (h : s.runStep = .next t) : BlockCase s t := by
  cases hmode : s.op.mode with
  | noop =>
    rw [State.runStep, hmode] at h
    cases h
    exact .clear hruns (Or.inl hmode)
  | fixed =>
    rw [State.runStep, hmode] at h
    cases h
    exact .clear hruns (Or.inr (Or.inl hmode))
  | triangle =>
    by_cases hphase : s.tri.phase = .idle
    · simp only [State.runStep, hmode, if_pos hphase] at h
      cases h
      exact .clear hruns (Or.inr (Or.inr ⟨hmode, hphase⟩))
    · rw [runStep_triangle hmode hphase] at h
      cases h
      exact .frame hruns hmode hphase
  | arbitrary =>
    rw [runStep_arbitrary hmode] at h
    rcases arbStep_spec s with ⟨hlen, hs⟩ | ⟨hlen, v, d, hs, -⟩ <;> cases hs.symm.trans h
    · exact .emptyBuffer hruns hmode hlen
    · exact .slot hruns hmode hlen v d

/-- What a step of the block can do. -/
theorem blockStep_cases {s t : State} (h : blockStep s = .next t) : BlockCase s t := by
  by_cases hboot : s.boot = .done
  · cases hfront : s.cfg.frontEnd with
    | true =>
      cases hdisp : s.dispState with
      | polling =>
        rw [blockStep_polling hboot hfront hdisp] at h
        exact poll_cases ⟨hboot, hfront, hdisp⟩ h
      | running =>
        rw [blockStep_running hboot hfront hdisp] at h
        exact run_cases ⟨hboot, hfront, hdisp⟩ h
    | false =>
      rw [blockStep_core hboot hfront, State.coreStep] at h
      split at h <;> cases h
      next hphase => exact .coreAtRest hboot hfront hphase
      next hphase => exact .coreFrame hboot hfront hphase
  · rw [blockStep_boot hboot] at h
    cases h
    exact .boot hboot

/-! ## What a step of the block leaves alone -/

/-- A step of boot moves the boot position, the handle and the frame buffer, and sends frames (R152). -/
theorem bootStep_spec (s : State) : ∃ b dh fb fs,
    s.bootStep = { s with boot := b, devHandle := dh, fb := fb, trace := s.trace ++ List.map .tx fs } := by
  have hnil : s.trace = s.trace ++ List.map .tx [] := (List.append_nil _).symm
  rw [State.bootStep]
  split
  · exact ⟨_, _, s.fb, [], by rw [← hnil]⟩
  · exact ⟨_, _, s.fb, [], by rw [← hnil]⟩
  · exact ⟨_, s.devHandle, s.fb, [], by rw [← hnil]⟩
  next f rest _ => exact ⟨_, s.devHandle, f, [f], rfl⟩
  · exact ⟨s.boot, s.devHandle, s.fb, [], by rw [← hnil]⟩

/-- From `s` to `t` the block made the events `evs`: it left the parameters, the agenda, the waveform memory and the slots in
flight alone, and the command register too unless it cleared it, after which the dispatcher polls. -/
structure BlockFrame (s t : State) (evs : List Event) : Prop where
  cfg : t.cfg = s.cfg
  agenda : t.agenda = s.agenda
  mem : t.mem = s.mem
  inFlight : t.inFlight = s.inFlight
  trace : t.trace = s.trace ++ evs
  cmdreg : t.cmdreg = if evs.any isClear then 0#32 else s.cmdreg
  polling : evs.any isClear = true → t.dispState = .polling

theorem BlockFrame.refl (s : State) : BlockFrame s s [] :=
  ⟨rfl, rfl, rfl, rfl, (List.append_nil _).symm, rfl, Bool.noConfusion⟩

/-- A frame of the sequencer, with or without its pause, is no clear. -/
theorem triStep_frame (s : State) : ∃ evs, BlockFrame s s.triStep evs := by
  have hquiet : (Event.tx (waveEncode s.tri.chan s.tri.sample s.cfg.opcTri s.cfg.tagTri) ::
      if 0 < s.tri.delay then [Event.wait s.tri.delay] else []).any isClear = false := by
    split <;> rfl
  exact ⟨_, triStep_cfg s, triStep_agenda s, triStep_mem s, triStep_inFlight s, triStep_trace s,
    by rw [triStep_cmdreg, hquiet]; rfl, by rw [hquiet]; exact Bool.noConfusion⟩

theorem bootStep_frame (s : State) : ∃ evs, BlockFrame s s.bootStep evs := by
  obtain ⟨b, dh, fb, fs, h⟩ := bootStep_spec s
  have hquiet : (List.map Event.tx fs).any isClear = false := by simp [isClear]
  rw [h]
  exact ⟨_, rfl, rfl, rfl, rfl, rfl, by rw [hquiet]; rfl, by rw [hquiet]; exact Bool.noConfusion⟩

theorem BlockCase.frame_rule {s t : State} (h : BlockCase s t) : ∃ evs, BlockFrame s t evs := by
  cases h with
  | boot _ => exact bootStep_frame s
  | idlePoll _ _ => exact ⟨[], .refl s⟩
  | nop _ _ _ => exact ⟨[.poll s.cmdreg, .clear], rfl, rfl, rfl, rfl, by simp, rfl, fun _ => rfl⟩
  | fixed _ _ _ =>
    exact ⟨.poll s.cmdreg :: fixedTrace (channelSelector s.cmdreg) (valueOrDelay s.cmdreg) ++ [.clear],
      rfl, rfl, rfl, rfl, by simp [fixedTrace], rfl, fun _ => rfl⟩
  | triStart _ _ _ => exact ⟨[.poll s.cmdreg], rfl, rfl, rfl, rfl, rfl, rfl, Bool.noConfusion⟩
  | arbStart _ _ _ => exact ⟨[.poll s.cmdreg], rfl, rfl, rfl, rfl, rfl, rfl, Bool.noConfusion⟩
  | clear _ _ => exact ⟨[.clear], rfl, rfl, rfl, rfl, rfl, rfl, fun _ => rfl⟩
  | frame _ _ _ => exact triStep_frame s
  | emptyBuffer _ _ _ => exact ⟨[], .refl s⟩
  | slot _ _ _ v d => exact ⟨_, rfl, rfl, rfl, rfl, rfl, rfl, Bool.noConfusion⟩
  | coreAtRest _ _ _ => exact ⟨[], .refl s⟩
  | coreFrame _ _ _ => exact triStep_frame s

theorem blockStep_frame {s t : State} (h : blockStep s = .next t) : ∃ evs, BlockFrame s t evs :=
  (blockStep_cases h).frame_rule

/-! ## The cases of a move -/

/-- The states that the move `m` can answer from `s`, with the condition of each. -/
inductive MoveCase (s : State) : Move → State → Prop
  | block {t : State} (h : blockStep s = .next t) : MoveCase s .block t
  | hostWrite (w : Word32) (hfront : s.cfg.frontEnd = true) : MoveCase s (.hostWrite w) { s with cmdreg := w }
  | hostWriteBefore {t : State} (w : Word32) (hfront : s.cfg.frontEnd = true)
      (h : blockStep { s with cmdreg := w } = .next t) : MoveCase s (.hostWriteIn 0 w) t
  | hostWriteInside {t : State} (k : Nat) (w : Word32) (hfront : s.cfg.frontEnd = true) (hk : k ≠ 0)
      (h : blockStep s = .next t) : MoveCase s (.hostWriteIn k w) (s.overwrittenAfter k w t)
  | slotBegin (i : Nat) (hslot : s.hasSlot i = true) : MoveCase s (.slotBegin i) (s.slotBegin i)
  | slotWrite (i : Nat) (v : Word32) (hslot : s.hasSlot i = true) : MoveCase s (.slotWrite i v) (s.slotWrite i v)
  | reset {t : State} (r : ResetMove) (h : blockStep s = .next t) :
      MoveCase s (.reset r) ((s.cutAfter r.afterEvents t).envReset r)
  | triStart (chan : Chan) (cycles delay : Nat) (hfront : s.cfg.frontEnd = false) :
      MoveCase s (.triStart chan cycles delay) (s.triStartPort chan cycles delay)
  | encPort (opcode : Byte) (chan : Chan) (samp : Sample) (tag : Byte) (hfront : s.cfg.frontEnd = false) :
      MoveCase s (.encPort opcode chan samp tag) (s.encodeFrame chan samp opcode tag)

/-- What a move can do. -/
theorem applyMove_cases {m : Move} {s t : State} (h : applyMove m s = .next t) : MoveCase s m t := by
  cases m with
  | block => exact .block h
  | hostWrite w =>
    rw [applyMove] at h
    split at h <;> cases h
    next hfront => exact .hostWrite w hfront
  | hostWriteIn k w =>
    rw [applyMove] at h
    split at h
    next hfront =>
      by_cases hk : k = 0
      · subst hk
        exact .hostWriteBefore w hfront h
      · obtain ⟨u, hu, hw⟩ := hostWriteIn_spec hk w s
        cases hw.symm.trans h
        exact .hostWriteInside k w hfront hk hu
    next => cases h
  | slotBegin i =>
    rw [applyMove] at h
    split at h <;> cases h
    next hslot => exact .slotBegin i hslot
  | slotWrite i v =>
    rw [applyMove] at h
    split at h <;> cases h
    next hslot => exact .slotWrite i v hslot
  | reset r =>
    obtain ⟨u, hu, hr⟩ := resetDuring_spec r s
    cases h
    rw [hr]
    exact .reset r hu
  | triStart chan cycles delay =>
    rw [applyMove] at h
    split at h <;> cases h
    next hfront => exact .triStart chan cycles delay (Bool.eq_false_iff.mpr hfront)
  | encPort opcode chan samp tag =>
    rw [applyMove] at h
    split at h <;> cases h
    next hfront => exact .encPort opcode chan samp tag (Bool.eq_false_iff.mpr hfront)

/-- A step of the system is the block's, with nothing on the agenda, or the first move of the agenda. -/
theorem step_cases {s t : State} (h : step s = .next t) :
    (s.agenda = [] ∧ blockStep s = .next t) ∨ ∃ m rest, s.agenda = m :: rest ∧ MoveCase { s with agenda := rest } m t := by
  have hwf := cfg_wf_of_step_next h
  cases hagenda : s.agenda with
  | nil =>
    rw [step_of_agenda_nil hwf hagenda] at h
    exact Or.inl ⟨rfl, h⟩
  | cons m rest =>
    rw [step_of_agenda_cons hwf hagenda] at h
    exact Or.inr ⟨m, rest, rfl, applyMove_cases h⟩

/-! ## Parameters and trace -/

theorem triStartPort_frame (chan : Chan) (cycles delay : Nat) (s : State) :
    BlockFrame s (s.triStartPort chan cycles delay) [] := by
  rw [State.triStartPort]
  split
  · exact ⟨rfl, rfl, rfl, rfl, (List.append_nil _).symm, rfl, Bool.noConfusion⟩
  · exact .refl s

/-- Any move keeps the parameters and only adds to the trace. -/
theorem MoveCase.cfg_trace {s t : State} {m : Move} (h : MoveCase s m t) :
    t.cfg = s.cfg ∧ ∃ evs, t.trace = s.trace ++ evs := by
  cases h with
  | block h =>
    obtain ⟨evs, hframe⟩ := blockStep_frame h
    exact ⟨hframe.cfg, evs, hframe.trace⟩
  | hostWrite w hfront => exact ⟨rfl, [], (List.append_nil _).symm⟩
  | hostWriteBefore w hfront h =>
    obtain ⟨evs, hframe⟩ := blockStep_frame h
    exact ⟨hframe.cfg, evs, hframe.trace⟩
  | hostWriteInside k w hfront hk h =>
    obtain ⟨evs, hframe⟩ := blockStep_frame h
    exact ⟨hframe.cfg, evs, hframe.trace⟩
  | slotBegin i hslot => rw [State.slotBegin]; split <;> exact ⟨rfl, [], (List.append_nil _).symm⟩
  | slotWrite i v hslot => exact ⟨rfl, [], (List.append_nil _).symm⟩
  | reset r h => exact ⟨rfl, _, rfl⟩
  | triStart chan cycles delay hfront =>
    have hframe := triStartPort_frame chan cycles delay s
    exact ⟨hframe.cfg, [], hframe.trace⟩
  | encPort opcode chan samp tag hfront => exact ⟨rfl, [], (List.append_nil _).symm⟩

/-- Settles O56: the block's step and every move keep the parameters and append to the trace. -/
theorem parametersStayAndTraceGrows : Obligations.ParametersStayAndTraceGrows := by
  intro s t h
  rcases step_cases h with ⟨-, hblock⟩ | ⟨m, rest, -, hmove⟩
  · obtain ⟨evs, hframe⟩ := blockStep_frame hblock
    exact ⟨hframe.cfg, evs, hframe.trace⟩
  · exact hmove.cfg_trace

/-! ## The waveform memory (20_memory.md sections 5 to 7) -/

/-- Only a landed write of the producer and a reset change the waveform memory, and besides them only the beginning of a
write changes the slots in flight. -/
theorem MoveCase.mem_inFlight {s t : State} {m : Move} (h : MoveCase s m t) (hwrite : ∀ i v, m ≠ .slotWrite i v)
    (hreset : ∀ r, m ≠ .reset r) : t.mem = s.mem ∧ ((∀ i, m ≠ .slotBegin i) → t.inFlight = s.inFlight) := by
  cases h with
  | block h =>
    obtain ⟨evs, hframe⟩ := blockStep_frame h
    exact ⟨hframe.mem, fun _ => hframe.inFlight⟩
  | hostWrite w hfront => exact ⟨rfl, fun _ => rfl⟩
  | hostWriteBefore w hfront h =>
    obtain ⟨evs, hframe⟩ := blockStep_frame h
    exact ⟨hframe.mem, fun _ => hframe.inFlight⟩
  | hostWriteInside k w hfront hk h =>
    obtain ⟨evs, hframe⟩ := blockStep_frame h
    exact ⟨hframe.mem, fun _ => hframe.inFlight⟩
  | slotBegin i hslot =>
    refine ⟨?_, fun hbegin => absurd rfl (hbegin i)⟩
    rw [State.slotBegin]
    split <;> rfl
  | slotWrite i v hslot => exact absurd rfl (hwrite i v)
  | reset r h => exact absurd rfl (hreset r)
  | triStart chan cycles delay hfront =>
    have hframe := triStartPort_frame chan cycles delay s
    exact ⟨hframe.mem, fun _ => hframe.inFlight⟩
  | encPort opcode chan samp tag hfront => exact ⟨rfl, fun _ => rfl⟩

/-- A step in which no write lands and no reset falls keeps the waveform memory, and the slots in flight too if no write
begins in it. -/
theorem step_mem_inFlight {s t : State} (hquiet : bufferQuietNext s = true) (h : step s = .next t) :
    t.mem = s.mem ∧ ((∀ i rest, s.agenda ≠ .slotBegin i :: rest) → t.inFlight = s.inFlight) := by
  rcases step_cases h with ⟨-, hblock⟩ | ⟨m, rest, hagenda, hmove⟩
  · obtain ⟨evs, hframe⟩ := blockStep_frame hblock
    exact ⟨hframe.mem, fun _ => hframe.inFlight⟩
  · rw [bufferQuietNext, hagenda] at hquiet
    have hwrite (i : Nat) (v : Word32) : m ≠ .slotWrite i v := by rintro rfl; cases hquiet
    have hreset (r : ResetMove) : m ≠ .reset r := by rintro rfl; cases hquiet
    obtain ⟨hmem, hflight⟩ := hmove.mem_inFlight hwrite hreset
    exact ⟨hmem, fun hbegin => hflight fun i hm => hbegin i rest (by rw [hagenda, hm])⟩

/-- Settles O47: the memory is not only read alike, it is the same. -/
theorem onlyTheProducerWritesTheBuffer : Obligations.OnlyTheProducerWritesTheBuffer := by
  intro s t hquiet h a
  obtain ⟨hmem, -⟩ := step_mem_inFlight hquiet h
  rw [hmem]

/-- A landed write: its slot holds the word and every other slot what it held (R39, R43). -/
theorem slotStored_slotWrite {s : State} (hnodup : s.inFlight.Nodup) (i : Nat) (v : Word32) :
    (s.slotWrite i v).slotStored i = some v ∧ ∀ j, j ≠ i → (s.slotWrite i v).slotStored j = s.slotStored j := by
  have haddr (j : Nat) : (s.slotWrite i v).slotAddr j = s.slotAddr j := rfl
  constructor
  · have hnot : ¬ (s.inFlight.erase i).contains i = true := by
      rw [List.contains_iff_mem]; exact hnodup.not_mem_erase
    rw [State.slotStored, slotWrite_inFlight, if_neg hnot, haddr, slotWrite_mem, memory_readWord_writeWord]
  · intro j hj
    have hcontains : (s.inFlight.erase i).contains j = s.inFlight.contains j := by
      rw [Bool.eq_iff_iff, List.contains_iff_mem, List.contains_iff_mem, List.mem_erase_of_ne hj]
    rw [State.slotStored, State.slotStored, slotWrite_inFlight, hcontains, haddr, slotWrite_mem,
      memory_readWord_writeWord_other]
    rw [State.slotAddr, State.slotAddr]; omega

/-- A begun write: nothing is known of its slot, and every other slot is as known as before (R43). -/
theorem slotStored_slotBegin (s : State) (i : Nat) :
    (s.slotBegin i).slotStored i = none ∧ ∀ j, j ≠ i → (s.slotBegin i).slotStored j = s.slotStored j := by
  rw [State.slotBegin]
  by_cases hin : s.inFlight.contains i = true
  · rw [if_pos hin]
    exact ⟨if_pos hin, fun _ _ => rfl⟩
  · rw [if_neg hin]
    refine ⟨if_pos (by simp), fun j hj => ?_⟩
    have hcontains : (i :: s.inFlight).contains j = s.inFlight.contains j := by
      rw [Bool.eq_iff_iff, List.contains_iff_mem, List.contains_iff_mem, List.mem_cons, or_iff_right hj]
    rw [State.slotStored, State.slotStored, hcontains]
    rfl

/-- Settles O46: the two moves of the producer, and any step that keeps memory, slots in flight and parameters. -/
theorem slotsHoldWhatTheProducerWrote : Obligations.SlotsHoldWhatTheProducerWrote := by
  refine ⟨fun s i v rest hwf hslot hnodup hagenda => ?_, fun s i rest hwf hslot hagenda => ?_,
    fun s t hquiet hbegin h j => ?_⟩
  · have hslot' : ({ s with agenda := rest } : State).hasSlot i = true := hslot
    exact ⟨_, (step_of_agenda_cons hwf hagenda).trans (if_pos hslot'),
      slotStored_slotWrite (s := { s with agenda := rest }) hnodup i v⟩
  · have hslot' : ({ s with agenda := rest } : State).hasSlot i = true := hslot
    exact ⟨_, (step_of_agenda_cons hwf hagenda).trans (if_pos hslot'), slotStored_slotBegin { s with agenda := rest } i⟩
  · obtain ⟨hmem, hflight⟩ := step_mem_inFlight hquiet h
    obtain ⟨hcfg, -⟩ := parametersStayAndTraceGrows s t h
    exact slotStored_congr hmem (hflight hbegin) (by rw [hcfg]) j

/-! ## The block is never stuck (60_exceptions.md section 12) -/

/-- A move is refused under one name only: its interface does not exist. -/
theorem refusal_of_applyMove {m : Move} {s : State} {r : Refusal} (h : applyMove m s = .refused r) : r = .noSuchMove := by
  cases m with
  | block =>
    obtain ⟨t, ht⟩ := blockStep_next s
    cases ht.symm.trans h
  | hostWrite w => rw [applyMove] at h; split at h <;> cases h; rfl
  | hostWriteIn k w =>
    rw [applyMove] at h
    split at h
    · by_cases hk : k = 0
      · obtain ⟨t, ht⟩ := blockStep_next { s with cmdreg := w }
        rw [hk, hostWriteIn_zero, ht] at h
        cases h
      · obtain ⟨t, -, ht⟩ := hostWriteIn_spec hk w s
        cases ht.symm.trans h
    · cases h; rfl
  | slotBegin i => rw [applyMove] at h; split at h <;> cases h; rfl
  | slotWrite i v => rw [applyMove] at h; split at h <;> cases h; rfl
  | reset r => cases h
  | triStart chan cycles delay => rw [applyMove] at h; split at h <;> cases h; rfl
  | encPort opcode chan samp tag => rw [applyMove] at h; split at h <;> cases h; rfl

/-- Settles O57: the block's step always answers, so a refusal is the configuration's or another agent's. -/
theorem blockIsNeverStuck : Obligations.BlockIsNeverStuck := by
  refine ⟨fun s hwf hagenda => ?_, fun s rest hwf hagenda => ?_, fun s r h => ?_⟩
  · rw [step_of_agenda_nil hwf hagenda]
    exact blockStep_next s
  · rw [step_of_agenda_cons hwf hagenda]
    exact blockStep_next _
  · by_cases hwf : s.cfg.wf = true
    · cases hagenda : s.agenda with
      | nil =>
        obtain ⟨t, ht⟩ := blockStep_next s
        rw [step_of_agenda_nil hwf hagenda, ht] at h
        cases h
      | cons m rest =>
        rw [step_of_agenda_cons hwf hagenda] at h
        exact Or.inr ⟨List.cons_ne_nil m rest, refusal_of_applyMove h⟩
    · rw [step, if_neg hwf] at h
      cases h
      exact Or.inl ⟨Bool.eq_false_iff.mpr hwf, rfl⟩

/-- What a configuration with a front end must meet (R34, R48). -/
theorem cfg_wf_iff {p : Params} (hfront : p.frontEnd = true) :
    p.wf = true ↔ p.cmdAddr % 4 = 0 ∧ p.wbBase % 4 = 0 ∧ ¬ (p.wbBase ≤ p.cmdAddr ∧ p.cmdAddr < p.wbBase + 4 * p.arbLen) := by
  simp only [Params.wf, hfront, Bool.not_true, Bool.false_or, Bool.and_eq_true, beq_iff_eq, Bool.not_eq_true',
    Bool.and_eq_false_iff, decide_eq_false_iff_not, and_assoc, not_and_or]

/-- Settles O58: a slot's address is the base and a multiple of 4, and each breach makes the configuration illegal. -/
theorem misalignedConfigurationIsRefused : Obligations.MisalignedConfigurationIsRefused := by
  refine ⟨fun s i hbase => ?_, fun s hfront hodd => if_neg fun hwf => ?_, fun s hfront hle hlt => if_neg fun hwf => ?_⟩
  · rw [State.slotAddr]; omega
  · obtain ⟨hcmd, hbase, -⟩ := (cfg_wf_iff hfront).mp hwf
    exact hodd.elim (fun h => h hcmd) (fun h => h hbase)
  · obtain ⟨-, -, hout⟩ := (cfg_wf_iff hfront).mp hwf
    exact hout ⟨hle, hlt⟩

end Sys2Proof.Proofs

/-!
The two invariants: of the whole system (10_state.md sections 4 to 6) and of the held command (20_memory.md section 7). Each
holds at reset, and every step keeps it.
-/
namespace Sys2Proof.Proofs

open Sys2Proof.Machine Sys2Proof.Safety Sys2Proof.Laws

/-- Settles O53: right after reset no memory is listed, nothing runs and nothing has returned. -/
theorem invariantsHoldAtReset : Obligations.InvariantsHoldAtReset := by
  intro p
  refine ⟨⟨⟨rfl, List.forall_mem_nil _⟩, ⟨List.nodup_nil, List.forall_mem_nil _⟩, ?_, ?_, Bool.noConfusion⟩,
    fun _ h => DispState.noConfusion h⟩
  · exact ⟨fun _ => rfl, BootStage.noConfusion, fun h => absurd rfl h, fun _ => rfl⟩
  · exact ⟨fun _ _ => rfl, fun _ h => DispState.noConfusion h, fun _ => ⟨rfl, fun h => absurd rfl h⟩⟩

/-! ## The system invariant under a step of the block -/

theorem bootStep_bootOk {s : State} (h : BootOk s) (hboot : s.boot ≠ .done) : BootOk s.bootStep := by
  obtain ⟨-, -, hhandle, hpolling⟩ := h
  have hpoll := hpolling hboot
  rw [State.bootStep]
  cases hb : s.boot with
  | opening => exact ⟨BootStage.noConfusion, fun _ => rfl, fun _ h => absurd rfl h, fun _ => hpoll⟩
  | configuring => exact ⟨BootStage.noConfusion, BootStage.noConfusion, fun _ _ => rfl, fun _ => hpoll⟩
  | sending left =>
    have hconf : s.devHandle = .configured := hhandle (by simp [hb]) (by simp [hb])
    cases left with
    | nil => exact ⟨BootStage.noConfusion, BootStage.noConfusion, fun _ _ => hconf, fun _ => hpoll⟩
    | cons f rest => exact ⟨BootStage.noConfusion, BootStage.noConfusion, fun _ _ => hconf, fun _ => hpoll⟩
  | done => exact absurd hb hboot

/-- Past boot, whatever the dispatcher does, the handle is in step with boot. -/
theorem bootOk_of_done {s t : State} (h : BootOk s) (hs : s.boot = .done) (ht : t.boot = .done)
    (hhandle : t.devHandle = s.devHandle) : BootOk t := by
  obtain ⟨-, -, hconf, -⟩ := h
  rw [BootOk, ht, hhandle]
  refine ⟨BootStage.noConfusion, BootStage.noConfusion, fun _ _ => hconf ?_ ?_, fun h => absurd rfl h⟩
  · rw [hs]; exact BootStage.noConfusion
  · rw [hs]; exact BootStage.noConfusion

/-- A front end that polls with no triangle run in progress meets the dispatcher's part. -/
theorem dispatchOk_polling {s : State} (hfront : s.cfg.frontEnd = true) (hdisp : s.dispState = .polling)
    (hphase : s.tri.phase = .idle) : DispatchOk s := by
  refine ⟨fun _ _ => hphase, fun _ h => ?_, fun h => ?_⟩
  · rw [hdisp] at h; cases h
  · rw [hfront] at h; cases h

/-- A front end that carries out one of the two generators' commands meets it by what it says of that generator. -/
theorem dispatchOk_running {s : State} (hfront : s.cfg.frontEnd = true) (hdisp : s.dispState = .running)
    (h : (s.op.mode = .triangle ∧ TriRunOk s) ∨
      (s.op.mode = .arbitrary ∧ s.tri.phase = .idle ∧ (s.cfg.arbLen = 0 ∨ s.arbIndex < s.cfg.arbLen))) :
    DispatchOk s := by
  refine ⟨fun _ h => ?_, fun _ _ => h, fun h => ?_⟩
  · rw [hdisp] at h; cases h
  · rw [hfront] at h; cases h

/-- Where the sequencer's step can lead a finite run: a cycle is left, or the run has returned; and `tri_done` tells which
of the two (R104, R105, R108). -/
theorem advance_ok {r : TriRegs} (hphase : r.phase ≠ .idle) (hdone : r.returned = false)
    (hleft : r.forever = false → 1 ≤ r.left) :
    (r.advance.phase ≠ .idle → r.forever = false → 1 ≤ r.advance.left ∧ r.advance.left ≤ r.left) ∧
      (r.advance.phase = .idle → r.forever = false ∧ r.advance.left = 0 ∧ r.advance.sample = 0#12) ∧
      (r.advance.returned = true ↔ r.advance.phase = .idle) := by
  rcases advance_cases r hphase with
    ⟨hp, -, h⟩ | ⟨hp, -, h⟩ | ⟨hp, -, h⟩ | ⟨hp, -, hf, h⟩ | ⟨hp, -, hf, hmore, h⟩ | ⟨hp, hs, hf, -, h⟩ <;> rw [h]
  · simpa [hp, hdone] using hleft
  · simpa [hdone] using hleft
  · simpa [hp, hdone] using hleft
  · simp [hdone, hf]
  · have hcycles : 1 ≤ r.left - 1 := by omega
    simp [hdone, hcycles]
  · simp [hf, hs]

/-- The sequencer's step keeps the operands of a dispatched run, its count and what it leaves at the return. -/
theorem triStep_triRunOk {s : State} (h : TriRunOk s) (hphase : s.tri.phase ≠ .idle) (hdone : s.tri.returned = false) :
    TriRunOk s.triStep := by
  obtain ⟨hchan, hdelay, hforever, hleft, -⟩ := h
  obtain ⟨hchan', hdelay', hforever'⟩ := advance_operands s.tri
  obtain ⟨hrun, hret, hport⟩ := advance_ok hphase hdone fun hf => (hleft hphase hf).1
  simp only [TriRunOk, State.triDone, triStep_tri, triStep_op, hchan', hdelay', hforever']
  refine ⟨hchan, hdelay, hforever, fun hp hf => ?_, fun hp => ?_⟩
  · obtain ⟨hpos, hle⟩ := hrun hp hf
    exact ⟨hpos, hle.trans (hleft hphase hf).2⟩
  · obtain ⟨hf, hl, hs⟩ := hret hp
    exact ⟨hf, hl, hs, hport.mpr hp⟩

/-- A run that has just been started by the dispatcher (R101). -/
theorem triRunOk_of_started {s : State} (h : s.tri = TriRegs.started s.op.chan s.op.cycles.toNat (delayOf s.op.vd)) :
    TriRunOk s := by
  rw [TriRunOk, h]
  refine ⟨rfl, rfl, rfl, fun _ hf => ?_, Phase.noConfusion⟩
  have hne : s.op.cycles.toNat ≠ 0 := beq_eq_false_iff_ne.mp hf
  exact ⟨Nat.one_le_iff_ne_zero.mpr hne, le_rfl⟩

/-- A step of the block keeps the parts of the invariant that speak of the dispatcher and the generators. -/
theorem BlockCase.dispatchOk {s t : State} (h : BlockCase s t) (hdisp : DispatchOk s) (hdone : DonePortOk s) :
    DispatchOk t ∧ DonePortOk t := by
  have hreturned (hphase : s.tri.phase ≠ .idle) : s.tri.returned = false :=
    Bool.eq_false_iff.mpr fun hret => hphase (hdone hret)
  have ⟨hpolling, hrunning, hcore⟩ := hdisp
  cases h with
  | boot _ =>
    obtain ⟨b, dh, fb, fs, heq⟩ := bootStep_spec s
    rw [heq]
    exact ⟨hdisp, hdone⟩
  | idlePoll _ _ => exact ⟨hdisp, hdone⟩
  | nop hpolls _ _ =>
    exact ⟨dispatchOk_polling hpolls.front rfl (hpolling hpolls.front hpolls.disp), hdone⟩
  | fixed hpolls _ _ =>
    exact ⟨dispatchOk_polling hpolls.front rfl (hpolling hpolls.front hpolls.disp), hdone⟩
  | triStart hpolls _ hmode =>
    exact ⟨dispatchOk_running hpolls.front rfl (Or.inl ⟨hmode, triRunOk_of_started rfl⟩), Bool.noConfusion⟩
  | arbStart hpolls _ hmode =>
    have hphase := hpolling hpolls.front hpolls.disp
    exact ⟨dispatchOk_running hpolls.front rfl (Or.inr ⟨hmode, hphase, Nat.eq_zero_or_pos _⟩), hdone⟩
  | clear hruns hmode =>
    obtain ⟨-, hfront, hd⟩ := hruns
    refine ⟨dispatchOk_polling hfront rfl ?_, hdone⟩
    rcases hrunning hfront hd with ⟨htri, -⟩ | ⟨-, hphase, -⟩
    · rw [htri] at hmode
      simpa using hmode
    · exact hphase
  | frame hruns hmode hphase =>
    obtain ⟨-, hfront, hd⟩ := hruns
    rcases hrunning hfront hd with ⟨-, hok⟩ | ⟨-, hidle, -⟩
    · have hok' := triStep_triRunOk hok hphase (hreturned hphase)
      obtain ⟨-, -, -, hleft, -⟩ := hok
      obtain ⟨-, -, hport⟩ := advance_ok hphase (hreturned hphase) fun hf => (hleft hphase hf).1
      refine ⟨dispatchOk_running (by rwa [triStep_cfg]) (by rwa [triStep_dispState])
        (Or.inl ⟨by rwa [triStep_op], hok'⟩), ?_⟩
      rw [DonePortOk, State.triDone, triStep_tri]
      exact hport.mp
    · exact absurd hidle hphase
  | emptyBuffer _ _ _ => exact ⟨hdisp, hdone⟩
  | slot hruns hmode hlen v d =>
    obtain ⟨-, hfront, hd⟩ := hruns
    rcases hrunning hfront hd with ⟨htri, -⟩ | ⟨-, hidle, -⟩
    · rw [hmode] at htri; cases htri
    · exact ⟨dispatchOk_running hfront hd
        (Or.inr ⟨hmode, hidle, Or.inr (Nat.mod_lt _ (Nat.pos_of_ne_zero hlen))⟩), hdone⟩
  | coreAtRest _ _ _ => exact ⟨hdisp, hdone⟩
  | coreFrame _ hfront hphase =>
    obtain ⟨hd, hleft⟩ := hcore hfront
    obtain ⟨hrun, -, hport⟩ := advance_ok hphase (hreturned hphase) (hleft hphase)
    obtain ⟨-, -, hforever⟩ := advance_operands s.tri
    simp only [DispatchOk, DonePortOk, State.triDone, triStep_cfg, triStep_dispState, triStep_tri, hfront, hd, hforever]
    exact ⟨⟨Bool.noConfusion, Bool.noConfusion, fun _ => ⟨trivial, fun hp hf => (hrun hp hf).1⟩⟩, hport.mp⟩

/-- A step of the block keeps the handle in step with boot, and dispatches nothing before boot is over. -/
theorem BlockCase.bootOk {s t : State} (h : BlockCase s t) (hok : BootOk s) : BootOk t := by
  cases h with
  | boot hboot => exact bootStep_bootOk hok hboot
  | idlePoll _ _ => exact hok
  | nop hpolls _ _ => exact bootOk_of_done hok hpolls.boot hpolls.boot rfl
  | fixed hpolls _ _ => exact bootOk_of_done hok hpolls.boot hpolls.boot rfl
  | triStart hpolls _ _ => exact bootOk_of_done hok hpolls.boot hpolls.boot rfl
  | arbStart hpolls _ _ => exact bootOk_of_done hok hpolls.boot hpolls.boot rfl
  | clear hruns _ => exact bootOk_of_done hok hruns.boot hruns.boot rfl
  | frame hruns _ _ =>
    exact bootOk_of_done hok hruns.boot (by rw [triStep_boot, hruns.boot]) (triStep_devHandle s)
  | emptyBuffer _ _ _ => exact hok
  | slot hruns _ _ _ _ => exact bootOk_of_done hok hruns.boot hruns.boot rfl
  | coreAtRest _ _ _ => exact hok
  | coreFrame hboot _ _ => exact bootOk_of_done hok hboot (by rw [triStep_boot, hboot]) (triStep_devHandle s)

theorem blockStep_systemInv {s t : State} (h : SystemInv s) (hstep : blockStep s = .next t) : SystemInv t := by
  obtain ⟨hmem, hflight, hboot, hdisp, hdone⟩ := h
  have hcase := blockStep_cases hstep
  obtain ⟨evs, hframe⟩ := hcase.frame_rule
  obtain ⟨hdisp', hdone'⟩ := hcase.dispatchOk hdisp hdone
  refine ⟨?_, ?_, hcase.bootOk hboot, hdisp', hdone'⟩
  · rw [MemoryOk, hframe.mem, hframe.cfg]; exact hmem
  · rw [InFlightOk, hframe.inFlight, hframe.cfg]; exact hflight

/-! ## The system invariant under a move -/

theorem hasSlot_lt {s : State} {i : Nat} (h : s.hasSlot i = true) : i < s.cfg.arbLen := by
  rw [State.hasSlot, Bool.and_eq_true, decide_eq_true_eq] at h
  exact h.2

/-- A slot that exists lies inside the buffer (R30, R39). -/
theorem slotWrite_memoryOk {s : State} (h : MemoryOk s) {i : Nat} (hi : i < s.cfg.arbLen) (v : Word32) :
    MemoryOk (s.slotWrite i v) := by
  obtain ⟨hwf, hinside⟩ := h
  refine ⟨memory_writeWord_wf _ _ _ hwf, fun c hc => ?_⟩
  rcases memory_mem_writeWord _ _ _ _ hc with ⟨hle, hlt⟩ | hold
  · rw [State.slotAddr] at hle hlt
    rw [slotWrite_cfg]
    omega
  · exact hinside c hold

theorem slotWrite_inFlightOk {s : State} (h : InFlightOk s) (i : Nat) (v : Word32) : InFlightOk (s.slotWrite i v) := by
  obtain ⟨hnodup, hlt⟩ := h
  exact ⟨hnodup.erase i, fun j hj => hlt j (List.mem_of_mem_erase hj)⟩

theorem slotBegin_systemInv {s : State} (h : SystemInv s) {i : Nat} (hi : i < s.cfg.arbLen) : SystemInv (s.slotBegin i) := by
  rw [State.slotBegin]
  by_cases hin : s.inFlight.contains i = true
  · rwa [if_pos hin]
  · obtain ⟨hmem, ⟨hnodup, hlt⟩, hboot, hdisp, hdone⟩ := h
    rw [if_neg hin]
    rw [List.contains_iff_mem] at hin
    exact ⟨hmem, ⟨List.nodup_cons.mpr ⟨hin, hnodup⟩, List.forall_mem_cons.mpr ⟨hi, hlt⟩⟩, hboot, hdisp, hdone⟩

/-- A reset puts everything but the memory at its reset value. -/
theorem envReset_systemInv {s : State} (hmem : MemoryOk s) (hflight : InFlightOk s) (r : ResetMove) :
    SystemInv (s.envReset r) := by
  obtain ⟨⟨-, -, hboot, hdisp, hdone⟩, -⟩ := invariantsHoldAtReset s.cfg
  refine ⟨?_, hflight, hboot, hdisp, hdone⟩
  rw [MemoryOk, envReset_mem, envReset_cfg]
  split
  · exact ⟨rfl, List.forall_mem_nil _⟩
  · exact hmem

/-- The start port of the core alone starts a run with a cycle left, or forever (R101, R108). -/
theorem triStartPort_systemInv {s : State} (h : SystemInv s) (hfront : s.cfg.frontEnd = false) (chan : Chan)
    (cycles delay : Nat) : SystemInv (s.triStartPort chan cycles delay) := by
  rw [State.triStartPort]
  split
  · obtain ⟨hmem, hflight, hboot, ⟨-, -, hcore⟩, -⟩ := h
    obtain ⟨hd, -⟩ := hcore hfront
    refine ⟨hmem, hflight, hboot, ⟨fun hf => ?_, fun hf => ?_, fun _ => ⟨hd, fun _ hforever => ?_⟩⟩, Bool.noConfusion⟩
    · cases hfront.symm.trans hf
    · cases hfront.symm.trans hf
    · exact Nat.one_le_iff_ne_zero.mpr (beq_eq_false_iff_ne.mp hforever)
  · exact h

/-- Any move keeps the system invariant. -/
theorem MoveCase.systemInv {s t : State} {m : Move} (hmove : MoveCase s m t) (h : SystemInv s) : SystemInv t := by
  have ⟨hmem, hflight, hboot, hdisp, hdone⟩ := h
  cases hmove with
  | block hstep => exact blockStep_systemInv h hstep
  | hostWrite w _ => exact h
  | hostWriteBefore w _ hstep => exact blockStep_systemInv (s := { s with cmdreg := w }) h hstep
  | hostWriteInside k w _ _ hstep =>
    have hwritten := blockStep_systemInv h hstep
    exact hwritten
  | slotBegin i hslot => exact slotBegin_systemInv h (hasSlot_lt hslot)
  | slotWrite i v hslot =>
    exact ⟨slotWrite_memoryOk hmem (hasSlot_lt hslot) v, slotWrite_inFlightOk hflight i v, hboot, hdisp, hdone⟩
  | reset r _ => exact envReset_systemInv hmem hflight r
  | triStart chan cycles delay hfront => exact triStartPort_systemInv h hfront chan cycles delay
  | encPort opcode chan samp tag _ => exact h

/-- Settles O54: the block's steps and the other agents' moves each keep the invariant, and it does not speak of the agenda. -/
theorem stepKeepsSystemInvariant : Obligations.StepKeepsSystemInvariant := by
  intro s t h hstep
  rcases step_cases hstep with ⟨-, hblock⟩ | ⟨m, rest, -, hmove⟩
  · exact blockStep_systemInv h hblock
  · exact hmove.systemInv h

/-! ## The held command (20_memory.md section 7) -/

/-- While the dispatcher does not run there is nothing to hold. -/
theorem heldInv_of_polling {s : State} (h : s.dispState = .polling) : HeldInv s := by
  intro _ hrunning
  rw [h] at hrunning
  cases hrunning

/-- A step of the block keeps the held command: it loads the latches from the register, and a running dispatcher changes the
register only by the clear that ends the run. -/
theorem blockStep_heldInv {s t : State} (h : HeldInv s) (hstep : blockStep s = .next t) : HeldInv t := by
  cases blockStep_cases hstep with
  | boot _ =>
    obtain ⟨b, dh, fb, fs, heq⟩ := bootStep_spec s
    rw [heq]
    exact h
  | idlePoll _ _ => exact h
  | nop _ _ _ => exact heldInv_of_polling rfl
  | fixed _ _ _ => exact heldInv_of_polling rfl
  | triStart _ hbusy _ => exact fun _ _ => ⟨hbusy, rfl⟩
  | arbStart _ hbusy _ => exact fun _ _ => ⟨hbusy, rfl⟩
  | clear _ _ => exact heldInv_of_polling rfl
  | frame _ _ _ =>
    rw [HeldInv, State.busy, triStep_cfg, triStep_dispState, triStep_op, triStep_cmdreg]
    exact h
  | emptyBuffer _ _ _ => exact h
  | slot _ _ _ _ _ => exact h
  | coreAtRest _ _ _ => exact h
  | coreFrame _ _ _ =>
    rw [HeldInv, State.busy, triStep_cfg, triStep_dispState, triStep_op, triStep_cmdreg]
    exact h

/-- The model's two ways to ask for a clear among events agree. -/
theorem contains_clear_eq_any (evs : List Event) : evs.contains .clear = evs.any isClear := by
  rw [List.contains_eq_any_beq]
  refine congrArg evs.any (funext fun e => ?_)
  cases e <;> rfl

/-- In a step that leaves the dispatcher running and the register busy, `busy` is 1 all along. -/
theorem busyAfter_of_running {s t : State} (hstep : blockStep s = .next t) (hrunning : t.dispState = .running)
    (hbusy : t.busy = true) (k : Nat) : busyAfter k s = true := by
  obtain ⟨evs, hframe⟩ := blockStep_frame hstep
  have hquiet : ¬ evs.any isClear = true := fun hclear =>
    DispState.noConfusion ((hframe.polling hclear).symm.trans hrunning)
  have hcut : ¬ (evs.take k).any isClear = true := fun hclear => by
    obtain ⟨e, he, hisClear⟩ := List.any_eq_true.mp hclear
    exact hquiet (List.any_eq_true.mpr ⟨e, List.mem_of_mem_take he, hisClear⟩)
  rw [State.busy, hframe.cmdreg, if_neg hquiet] at hbusy
  rw [busyAfter, hstep]
  simp only [eventsOfStep_append hframe.trace, contains_clear_eq_any, Bool.eq_false_iff.mpr hcut, State.busy, hbusy,
    Bool.not_false, Bool.and_true]

/-- A write that lands inside a step when `busy` is 0, before the step or after its clear, meets no running command. -/
theorem overwrittenAfter_heldInv {s t : State} {k : Nat} (h : HeldInv s) (hstep : blockStep s = .next t)
    (hidle : busyAfter k s = false) (w : Word32) : HeldInv (s.overwrittenAfter k w t) := by
  intro hfront hrunning
  obtain ⟨hbusy, -⟩ := blockStep_heldInv h hstep hfront hrunning
  rw [busyAfter_of_running hstep hrunning hbusy k] at hidle
  cases hidle

/-- The premise on the host as a premise on its move: no write lands on a busy register. -/
def MoveOk (s : State) : Move → Prop
  | .hostWrite _ => s.busy = false
  | .hostWriteIn k _ => busyAfter k s = false
  | _ => True

theorem moveOk_of_hostStepOk {s : State} {m : Move} {rest : List Move} (hok : hostStepOk s = true)
    (hagenda : s.agenda = m :: rest) : MoveOk { s with agenda := rest } m := by
  rw [hostStepOk, hagenda] at hok
  cases m with
  | hostWrite w => exact (Bool.not_eq_true' _).mp hok
  | hostWriteIn k w => exact (Bool.not_eq_true' _).mp hok
  | _ => trivial

/-- Before the first event of a step, `busy` is that of the register. -/
theorem busyAfter_zero (s : State) : busyAfter 0 s = s.busy := by
  obtain ⟨t, ht⟩ := blockStep_next s
  rw [busyAfter, ht]
  exact Bool.and_true _

/-- A register that is not busy holds no running command, so the host may write it. -/
theorem setCmdreg_heldInv {s : State} (h : HeldInv s) (hidle : s.busy = false) (w : Word32) :
    HeldInv { s with cmdreg := w } := by
  intro hfront hrunning
  obtain ⟨hbusy, -⟩ := h hfront hrunning
  rw [hidle] at hbusy
  cases hbusy

/-- Any move that meets the premise keeps the held command. -/
theorem MoveCase.heldInv {s t : State} {m : Move} (hmove : MoveCase s m t) (h : HeldInv s) (hok : MoveOk s m) :
    HeldInv t := by
  cases hmove with
  | block hstep => exact blockStep_heldInv h hstep
  | hostWrite w _ => exact setCmdreg_heldInv h hok w
  | hostWriteBefore w _ hstep =>
    exact blockStep_heldInv (setCmdreg_heldInv h ((busyAfter_zero s).symm.trans hok) w) hstep
  | hostWriteInside k w _ _ hstep => exact overwrittenAfter_heldInv h hstep hok w
  | slotBegin i _ => rw [State.slotBegin]; split <;> exact h
  | slotWrite i v _ => exact h
  | reset r _ => exact heldInv_of_polling rfl
  | triStart chan cycles delay hfront =>
    rw [State.triStartPort]
    split <;> exact h
  | encPort opcode chan samp tag _ => exact h

/-- Settles O55: every move keeps it, and the host's two moves by the premise. -/
theorem disciplinedHostKeepsTheCommand : Obligations.DisciplinedHostKeepsTheCommand := by
  intro s t h hok hstep
  rcases step_cases hstep with ⟨-, hblock⟩ | ⟨m, rest, hagenda, hmove⟩
  · exact blockStep_heldInv h hblock
  · exact hmove.heldInv h (moveOk_of_hostStepOk hok hagenda)

end Sys2Proof.Proofs

/-!
The Triangle Generator's statements about one step (43_triangle_generator.md section 2), the closed form (section 3), the
document's loop (section 1), and the whole of a dispatched command (40_command_dispatch.md sections 3 and 4).
-/
namespace Sys2Proof.Proofs

open Sys2Proof.Machine Sys2Proof.Safety Sys2Proof.Laws

/-! ## One step -/

/-- The advance as the pseudocode of R103 writes it. -/
theorem advance_eq_ite {r : TriRegs} (h : r.phase ≠ .idle) : r.advance =
    if r.phase = .up then
      if r.sample.toNat < 4095 then { r with sample := r.sample + 1#12 } else { r with phase := .down }
    else if 0 < r.sample.toNat then { r with sample := r.sample - 1#12 }
    else if r.forever = true then { r with phase := .up }
    else if 1 < r.left then { r with left := r.left - 1, phase := .up }
    else { r with left := 0, phase := .idle, returned := true } := by
  rcases advance_cases r h with
    ⟨hp, hs, e⟩ | ⟨hp, hs, e⟩ | ⟨hp, hs, e⟩ | ⟨hp, hs, hf, e⟩ | ⟨hp, hs, hf, hl, e⟩ | ⟨hp, hs, hf, hl, e⟩ <;> rw [e]
  · rw [if_pos hp, if_pos hs]
  · rw [if_pos hp, if_neg (by rw [hs]; decide)]
  · rw [if_neg (by rw [hp]; decide), if_pos hs]
  · rw [if_neg (by rw [hp]; decide), if_neg (by rw [hs]; decide), if_pos hf]
  · rw [if_neg (by rw [hp]; decide), if_neg (by rw [hs]; decide), if_neg (by rw [hf]; decide), if_pos hl]
  · rw [if_neg (by rw [hp]; decide), if_neg (by rw [hs]; decide), if_neg (by rw [hf]; decide), if_neg (by omega)]

/-- Settles O30: the sequencer's step, with its advance written out. -/
theorem triStepSendsAndAdvances : Obligations.TriStepSendsAndAdvances := by
  intro s hrun hphase
  rw [step_of_sequencerRuns hrun hphase, triStep_eq, advance_eq_ite hphase]

/-- Settles O31: the turns are the two transitions that write the phase, the others write the sample. -/
theorem turnsRepeatTheSample : Obligations.TurnsRepeatTheSample := by
  intro s hrun hphase
  refine ⟨_, step_of_sequencerRuns hrun hphase, ?_⟩
  rw [triStep_tri, advance_eq_ite hphase]
  have hlt := s.tri.sample.isLt
  refine ⟨fun hp hs => ?_, fun hp hs => ?_, fun hp hs => ?_, fun hp hs hmore => ?_⟩
  · rw [if_pos hp, if_neg (by omega)]
    exact ⟨rfl, rfl⟩
  · rw [if_pos hp, if_pos (by omega)]
    refine ⟨hp, ?_⟩
    rw [BitVec.toNat_add, BitVec.toNat_ofNat]
    omega
  · rw [if_neg (by rw [hp]; decide), if_pos (by omega)]
    refine ⟨hp, ?_⟩
    rw [BitVec.toNat_sub, BitVec.toNat_ofNat]
    omega
  · rw [if_neg (by rw [hp]; decide), if_neg (by omega)]
    by_cases hf : s.tri.forever = true
    · rw [if_pos hf]
      exact ⟨rfl, rfl⟩
    · rw [if_neg hf, if_pos (hmore.resolve_left hf)]
      exact ⟨rfl, rfl⟩

/-- Settles O60: `tri_done` is written by a start and by the return, and the return is the one way to IDLE. -/
theorem donePortReportsTheReturn : Obligations.DonePortReportsTheReturn := by
  refine ⟨fun _ => rfl, fun s chan cycles delay rest hwf hfront hagenda hidle => ?_, fun s hrun hphase hdone => ?_,
    fun s hcore hidle => ?_⟩
  · refine ⟨_, step_triStart hwf hfront hagenda, ?_⟩
    rw [State.triDone, if_pos hidle]
    exact ⟨rfl, rfl⟩
  · refine ⟨_, step_of_sequencerRuns hrun hphase, ?_⟩
    rw [State.triDone] at hdone ⊢
    rw [triStep_tri]
    rcases advance_cases s.tri hphase with
      ⟨hp, -, h⟩ | ⟨-, -, h⟩ | ⟨hp, -, h⟩ | ⟨-, -, -, h⟩ | ⟨-, -, -, -, h⟩ | ⟨-, -, -, -, h⟩ <;> rw [h]
    · simp [hdone, hp]
    · simp [hdone]
    · simp [hdone, hp]
    · simp [hdone]
    · simp [hdone]
    · simp
  · obtain ⟨hwf, hfront, hboot, hagenda⟩ := hcore
    exact ⟨s, by rw [step_of_agenda_nil hwf hagenda, blockStep_core hboot hfront, State.coreStep, if_pos hidle], rfl⟩

/-! ## The closed form (R110) and the loop (R102) -/

/-- One pass of the loop is one period of the closed form: the way up counts, and the way down counts back. -/
theorem map_triSample_period :
    (List.range 8192).map triSample = List.range 4096 ++ (List.range 4096).reverse := by
  have hup : (List.range 4096).map triSample = List.range 4096 := by
    refine (List.map_congr_left fun k hk => ?_).trans (List.map_id _)
    rw [List.mem_range] at hk
    rw [triSample_of_up (by omega), id, Nat.mod_eq_of_lt (by omega)]
  have hdown : (List.range 4096).map (triSample ∘ fun k => 4096 + k) = (List.range 4096).reverse := by
    apply List.ext_getElem
    · rw [List.length_map, List.length_reverse]
    · intro k hk _
      rw [List.length_map, List.length_range] at hk
      rw [List.getElem_map, List.getElem_reverse, List.getElem_range, List.getElem_range, List.length_range,
        Function.comp_apply, triSample_of_down (by omega)]
      omega
  have hsplit : List.range 8192 = List.range 4096 ++ (List.range 4096).map fun k => 4096 + k :=
    List.range_add (n := 4096) (m := 4096)
  rw [hsplit, List.map_append, List.map_map, hup, hdown]

theorem triSample_add_cycles (n k : Nat) : triSample (8192 * n + k) = triSample k := by
  simp only [triSample, Nat.mul_add_mod]

/-- Settles O34, by induction on the number of passes. -/
theorem loopSamplesAreClosedForm : Obligations.LoopSamplesAreClosedForm := by
  intro n
  induction n with
  | zero => rfl
  | succ n ih =>
    have hpass : (List.range 8192).map (triSample ∘ fun k => 8192 * n + k) = (List.range 8192).map triSample :=
      List.map_congr_left fun k _ => triSample_add_cycles n k
    rw [triLoop, ih, Nat.mul_succ, List.range_add, List.map_append, List.map_map, hpass, map_triSample_period]

theorem sum_range_mul_two (n : Nat) : (List.range n).sum * 2 = n * (n - 1) := by
  rw [← Finset.sum_range_id_mul_two, ← List.toFinset_range, List.sum_toFinset _ List.nodup_range, List.map_id']

/-- Settles O33: each law is linear arithmetic on the two branches, and the sum is that of the two sweeps of a period. -/
theorem triSampleLaws : Obligations.TriSampleLaws := by
  refine ⟨by decide, fun k => ⟨triSample_of_up, triSample_of_down⟩, fun k => ?_, fun j hj => ?_, fun v hv => ?_,
    fun k => triSample_succ_of_turn, fun k hk => ?_, ?_⟩
  · rw [triSample, triSample, Nat.add_mod_right]
  · rw [triSample, triSample]
    split <;> split <;> omega
  · refine ⟨v, 8191 - v, by omega, by omega, by omega, fun k hk => ?_⟩
    rw [triSample]
    split <;> omega
  · by_cases hup : k % 8192 < 4096
    · exact Or.inl (triSample_succ_of_up (by omega))
    · exact Or.inr (triSample_succ_of_down (by omega) (by omega)).symm
  · have hrange := sum_range_mul_two 4096
    rw [map_triSample_period, List.sum_append_nat, List.sum_reverse]
    omega

/-! ## The three descriptions of a run (R112) -/

theorem triStreamPrefix_eq_flatMap (p : Params) (chan : Chan) (delay k : Nat) :
    triStreamPrefix p chan delay k = (List.range k).flatMap (triEvents p chan delay) := by
  induction k with
  | zero => rfl
  | succ k ih => rw [triStreamPrefix, ih, List.range_succ, List.flatMap_append, List.flatMap_singleton]

/-- The loop's trace is the closed form's. -/
theorem triLoopTrace_eq_triTrace (p : Params) (chan : Chan) (n delay : Nat) :
    triLoopTrace p chan n delay = triTrace p chan n delay := by
  rw [triLoopTrace, triTrace, triStreamPrefix_eq_flatMap, loopSamplesAreClosedForm, List.flatMap_map]
  rfl

/-- A run in progress has not returned. -/
theorem runStateAfter_phase_ne_idle (s : State) (chan : Chan) {n k : Nat} (hk : n = 0 ∨ k < 8192 * n) (delay : Nat) :
    (runStateAfter s chan n delay k).tri.phase ≠ .idle := by
  rw [runStateAfter, regsAfterFrames_of_running hk]
  exact runningRegs_phase_ne_idle

/-- After its last frame a finite run has returned. -/
theorem runStateAfter_last_tri (s : State) (chan : Chan) {n : Nat} (hn : 1 ≤ n) (delay : Nat) :
    (runStateAfter s chan n delay (8192 * n)).tri = returnedRegs chan delay :=
  regsAfterFrames_last hn chan delay

/-- After a returned run all that is left to do is the completing write (R78). -/
theorem runStep_of_returned {s : State} (hmode : s.op.mode = .triangle) (hidle : s.tri.phase = .idle) :
    s.runStep = .next s.complete := by
  rw [State.runStep, hmode]
  exact if_pos hidle

theorem step_of_returned {s : State} (hrun : InTriangle s) (hidle : s.tri.phase = .idle) :
    step s = .next s.complete := by
  obtain ⟨⟨hwf, hfront, hboot, hagenda⟩, hrunning, hmode⟩ := hrun
  rw [step_of_agenda_nil hwf hagenda, blockStep_running hboot hfront hrunning, runStep_of_returned hmode hidle]

/-- Settles O41: the completing write is the clear and the return to POLLING. -/
theorem returnedRunIsCleared : Obligations.ReturnedRunIsCleared := fun _ => step_of_returned

/-- A finite dispatched run from its start to its completing write. -/
theorem runFor_finite_triangle {s : State} {chan : Chan} {n delay : Nat} (hrun : InTriangle s)
    (hstart : s.tri = TriRegs.started chan n delay) (hn : 1 ≤ n) :
    runFor (8192 * n + 1) s = .next (runStateAfter s chan n delay (8192 * n)).complete := by
  have hframes := runFor_of_started (Or.inl hrun) hstart (k := 8192 * n) (Or.inr le_rfl)
  have hrun' : InTriangle (runStateAfter s chan n delay (8192 * n)) := hrun
  exact runFor_snoc hframes (step_of_returned hrun' (by rw [runStateAfter_last_tri s chan hn]; rfl))

/-- Settles O35: the machine's trace is the closed form's by `runFor_of_started`, and the loop's is the closed form's. -/
theorem threeDescriptionsAgree : Obligations.ThreeDescriptionsAgree := by
  intro s chan n delay hrun hstart
  refine ⟨fun hn => ⟨fun k hk => ?_, ?_⟩, fun hzero => ⟨fun k => ?_, fun m => ?_⟩⟩
  · exact ⟨_, runFor_of_started hrun hstart (Or.inr hk.le), runStateAfter_phase_ne_idle s chan (Or.inr hk) delay⟩
  · refine ⟨_, runFor_of_started hrun hstart (Or.inr le_rfl), by rw [runStateAfter_last_tri s chan hn]; rfl, rfl,
      by rw [triLoopTrace_eq_triTrace]; rfl, fun htri => ?_⟩
    exact ⟨_, runFor_finite_triangle htri hstart hn, rfl, rfl⟩
  · exact ⟨_, runFor_of_started hrun hstart (Or.inl hzero), runStateAfter_phase_ne_idle s chan (Or.inl hzero) delay, rfl⟩
  · exact ⟨_, runFor_of_started hrun hstart (Or.inl hzero), by rw [triLoopTrace_eq_triTrace]; rfl⟩

/-! ## Frame number and registers (10_state.md section 5) -/

theorem runningRegs_atFrame (chan : Chan) (n delay k : Nat) : AtFrame (runningRegs chan n delay k) n k := by
  refine ⟨fun hk => ⟨runningRegs_phase_eq_up_iff.mpr hk, ?_⟩, fun hk => ⟨runningRegs_phase_eq_down_iff.mpr hk, ?_⟩,
    fun _ => rfl⟩
  · rw [runningRegs_sample_toNat, triSample_of_up hk]
  · rw [runningRegs_sample_toNat, triSample_of_down hk]

/-- Settles O37: before frame `k` the registers are `runningRegs`, after the last `returnedRegs`. -/
theorem frameNumberDeterminesRegisters : Obligations.FrameNumberDeterminesRegisters := by
  intro s chan n delay hrun hstart
  refine ⟨fun k hk => ?_, fun hn => ?_⟩
  · have htri : (runStateAfter s chan n delay k).tri = runningRegs chan n delay k := regsAfterFrames_of_running hk chan delay
    have hforever : (runningRegs chan n delay k).forever = true ↔ n = 0 := beq_iff_eq
    have hleft (hn : n ≠ 0) : 1 ≤ n - k / 8192 ∧ n - k / 8192 ≤ n := by omega
    refine ⟨_, runFor_of_started hrun hstart (hk.imp_right Nat.le_of_lt), runStateAfter_phase_ne_idle s chan hk delay, ?_⟩
    rw [htri]
    refine ⟨runningRegs_atFrame chan n delay k, hforever, hleft, fun hfinite hmax => ?_⟩
    obtain ⟨hpos, hle⟩ := hleft fun hzero => by rw [hforever.mpr hzero] at hfinite; cases hfinite
    exact ⟨hpos, hle.trans hmax⟩
  · have hn' : 1 ≤ n := Nat.one_le_iff_ne_zero.mpr hn
    refine ⟨_, runFor_of_started hrun hstart (Or.inr le_rfl), ?_⟩
    rw [runStateAfter_last_tri s chan hn']
    exact ⟨rfl, rfl, rfl⟩

/-! ## A finite command from its poll to its clear (R82) -/

/-- The last frame of a run carries sample 0. -/
theorem frameBufferAfter_last (s : State) (chan : Chan) {n : Nat} (hn : 1 ≤ n) :
    frameBufferAfter s chan (8192 * n) = waveEncode chan 0#12 s.cfg.opcTri s.cfg.tagTri := by
  obtain ⟨k, hk⟩ : ∃ k, 8192 * n = k + 1 := ⟨8192 * n - 1, by omega⟩
  have hzero : triSample k = 0 := by
    rw [triSample_of_down (by omega)]
    omega
  rw [hk, frameBufferAfter, hzero]

/-- A finite triangle command: the start, every frame of the run, and the clear. -/
theorem finite_triangle_completes {s : State} (hready : Ready s) (htri : s.cmdreg.toNat % 8 = 5)
    (hfinite : cycleCount s.cmdreg ≠ 0#8) :
    ∃ n t, runFor n s = .next t ∧ Ready t ∧ t.cmdreg = 0#32 ∧ t.op = latchesOf s.cmdreg ∧
      t.trace = s.trace ++ ([.poll s.cmdreg] ++ triTrace s.cfg (channelSelector s.cmdreg) (cycleCount s.cmdreg).toNat
        (delayOf (valueOrDelay s.cmdreg)) ++ [.clear]) ∧
      t.tri.phase = .idle ∧ t.fb = waveEncode (channelSelector s.cmdreg) 0#12 s.cfg.opcTri s.cfg.tagTri := by
  have hn : 1 ≤ (cycleCount s.cmdreg).toNat :=
    Nat.one_le_iff_ne_zero.mpr fun h => hfinite (BitVec.eq_of_toNat_eq h)
  have hstep := step_ready_triangle hready htri
  have ⟨halone, _⟩ := hready
  refine ⟨_, _, (runFor_succ _ hstep).trans
    (runFor_finite_triangle ⟨halone, rfl, modeOf_triangle htri⟩ rfl hn), ⟨halone, rfl⟩, rfl, rfl, ?_, ?_,
    frameBufferAfter_last _ _ hn⟩
  · simp only [complete_trace, runStateAfter, triTrace, List.append_assoc]
  · rw [complete_tri, runStateAfter_last_tri _ _ hn]
    rfl

/-- Settles O40: a no-op and a fixed word in one step, a triangle word by its run. -/
theorem finiteDispatchCompletes : Obligations.FiniteDispatchCompletes := by
  intro s hready hbusy hfinite
  rw [busy_iff] at hbusy
  have ⟨halone, hpolling⟩ := hready
  rcases word_cases s.cmdreg with hidle | hfixed | htri | harb | hnop
  · omega
  · have hmode := modeOf_fixed hfixed
    refine ⟨1, _, _, by rw [dispatchTrace, hmode]; rfl, runFor_succ 0 (step_ready_fixed hready hfixed),
      ⟨halone, hpolling⟩, rfl, rfl, rfl, fun h => ?_⟩
    rw [hmode] at h; cases h
  · have hcount : cycleCount s.cmdreg ≠ 0#8 := fun h => by
      simp [infiniteCommand, busyBit_eq, hbusy, modeOf_triangle htri, h] at hfinite
    obtain ⟨n, t, hrun, hready', hreg, hop, htrace, hphase, hfb⟩ := finite_triangle_completes hready htri hcount
    exact ⟨n, t, _, by rw [dispatchTrace, modeOf_triangle htri]; exact if_neg hcount, hrun, hready', hreg, hop, htrace,
      fun _ => ⟨hphase, hfb⟩⟩
  · simp [infiniteCommand, busyBit_eq, hbusy, modeOf_arbitrary harb] at hfinite
  · have hmode := modeOf_noop hnop
    refine ⟨1, _, _, by rw [dispatchTrace, hmode], runFor_succ 0 (step_ready_nop hready hnop), ⟨halone, hpolling⟩,
      rfl, rfl, rfl, fun h => ?_⟩
    rw [hmode] at h; cases h

end Sys2Proof.Proofs

/-!
The Arbitrary Generator's runs (44_arbitrary_generator.md): one slot a step, the slots in order, the empty buffer.
-/
namespace Sys2Proof.Proofs

open Sys2Proof.Machine Sys2Proof.Safety Sys2Proof.Laws

/-- Settles O43: the generator's step, with the halves of the slot as R58 names them. -/
theorem arbStepPlaysOneSlot : Obligations.ArbStepPlaysOneSlot := by
  intro s hrun hlen
  rw [step_of_inArbitrary hrun]
  rcases arbStep_spec s with ⟨hzero, -⟩ | ⟨-, v, d, hstep, hstored⟩
  · exact absurd hzero hlen
  · refine ⟨v, d, fun w hw => ?_, ?_⟩
    · rcases hstored with ⟨hv, -⟩ | ⟨hnone, -⟩
      · exact Option.some.inj (hv.symm.trans hw)
      · cases hnone.symm.trans hw
    · rw [hstep, slotHigh_eq, slotLow_eq]

/-! ## Runs of several steps (R125) -/

/-- The events of a run that plays the values `vs` from slot `first` on. -/
def playedEvents (p : Params) (chan : Chan) (first : Nat) (vs : List Word32) : List Event :=
  (List.range vs.length).flatMap fun m => arbEvents p chan ((first + m) % p.arbLen) (vs.getD m 0#32)

theorem playedEvents_concat (p : Params) (chan : Chan) (first : Nat) (vs : List Word32) (v : Word32) :
    playedEvents p chan first (vs ++ [v]) =
      playedEvents p chan first vs ++ arbEvents p chan ((first + vs.length) % p.arbLen) v := by
  have hold : ∀ m ∈ List.range vs.length, arbEvents p chan ((first + m) % p.arbLen) ((vs ++ [v]).getD m 0#32) =
      arbEvents p chan ((first + m) % p.arbLen) (vs.getD m 0#32) := fun m hm => by
    rw [List.getD_append _ _ _ _ (List.mem_range.mp hm)]
  have hnew : (vs ++ [v]).getD vs.length 0#32 = v := by simp
  rw [playedEvents, List.length_append, List.length_singleton, List.range_succ, List.flatMap_append,
    List.flatMap_singleton, hnew, List.flatMap_congr hold, playedEvents]

/-- The machine after an arbitrary run from `s` has played the slot values `vs`: the trace, the index, the frame buffer and
the draw count are the only things that moved. -/
def playedState (s : State) (vs : List Word32) (fb : Frame) (draws : Nat) : State :=
  { s with
    trace := s.trace ++ playedEvents s.cfg s.op.chan s.arbIndex vs
    arbIndex := (s.arbIndex + vs.length) % s.cfg.arbLen
    fb := fb
    draws := draws }

theorem playedState_nil {s : State} (hindex : s.arbIndex < s.cfg.arbLen) : playedState s [] s.fb s.draws = s := by
  simp [playedState, playedEvents, Nat.mod_eq_of_lt hindex]

/-- One slot more, whose value is the known one where the contents are known. -/
theorem step_playedState {s : State} (hrun : InArbitrary s) (hlen : s.cfg.arbLen ≠ 0) (vs : List Word32) (fb : Frame)
    (d : Nat) :
    ∃ v fb' d', step (playedState s vs fb d) = .next (playedState s (vs ++ [v]) fb' d') ∧
      ∀ w, s.slotStored ((s.arbIndex + vs.length) % s.cfg.arbLen) = some w → v = w := by
  have hrun' : InArbitrary (playedState s vs fb d) := hrun
  obtain ⟨v, d', hstored, hstep⟩ := arbStepPlaysOneSlot _ hrun' hlen
  refine ⟨v, waveEncode s.op.chan (slotLow v) s.cfg.opcArb s.cfg.tagArb, d', hstep.trans ?_, hstored⟩
  simp only [playedState, playedEvents_concat, List.append_assoc, List.length_append, List.length_singleton,
    Nat.mod_add_mod, Nat.add_assoc]
  rfl

/-- The values that a run reads are those of the slots whose contents are known. -/
def ReadsStored (s : State) (vs : List Word32) : Prop :=
  ∀ m < vs.length, ∀ w, s.slotStored ((s.arbIndex + m) % s.cfg.arbLen) = some w → vs.getD m 0#32 = w

theorem ReadsStored.concat {s : State} {vs : List Word32} {v : Word32} (h : ReadsStored s vs)
    (hv : ∀ w, s.slotStored ((s.arbIndex + vs.length) % s.cfg.arbLen) = some w → v = w) : ReadsStored s (vs ++ [v]) := by
  intro m hm w hw
  rcases Nat.lt_or_ge m vs.length with hlt | hge
  · rw [List.getD_append _ _ _ _ hlt]
    exact h m hlt w hw
  · rw [List.length_append, List.length_singleton] at hm
    obtain rfl : m = vs.length := by omega
    simpa using hv w hw

/-- Where an arbitrary run stands after any number of steps. -/
theorem runFor_arbitrary {s : State} (hrun : InArbitrary s) (hlen : s.cfg.arbLen ≠ 0)
    (hindex : s.arbIndex < s.cfg.arbLen) (n : Nat) :
    ∃ vs fb d, runFor n s = .next (playedState s vs fb d) ∧ vs.length = n ∧ ReadsStored s vs := by
  induction n with
  | zero =>
    exact ⟨[], s.fb, s.draws, by rw [playedState_nil hindex, runFor_zero], rfl, fun _ hm => absurd hm (Nat.not_lt_zero _)⟩
  | succ n ih =>
    obtain ⟨vs, fb, d, hn, hlength, hreads⟩ := ih
    obtain ⟨v, fb', d', hstep, hv⟩ := step_playedState hrun hlen vs fb d
    exact ⟨vs ++ [v], fb', d', runFor_snoc hn hstep, by rw [List.length_append, hlength, List.length_singleton],
      hreads.concat hv⟩

/-- The spec's stream plays the contents. -/
theorem arbStreamPrefix_eq_flatMap {p : Params} (hlen : p.arbLen ≠ 0) (chan : Chan) (contents : Nat → Word32)
    (first n : Nat) :
    arbStreamPrefix p chan contents first n = (List.range n).flatMap fun m =>
      arbEvents p chan ((first + m) % p.arbLen) (contents ((first + m) % p.arbLen)) := by
  induction n with
  | zero => rfl
  | succ n ih => rw [arbStreamPrefix, if_neg hlen, ih, List.range_succ, List.flatMap_append, List.flatMap_singleton]

/-- With all contents known, the run's events are the stream's. -/
theorem playedEvents_eq_arbStreamPrefix {s : State} {vs : List Word32} {contents : Nat → Word32}
    (hlen : s.cfg.arbLen ≠ 0) (hreads : ReadsStored s vs)
    (hcontents : ∀ i, i < s.cfg.arbLen → s.slotStored i = some (contents i)) :
    playedEvents s.cfg s.op.chan s.arbIndex vs = arbStreamPrefix s.cfg s.op.chan contents s.arbIndex vs.length := by
  rw [playedEvents, arbStreamPrefix_eq_flatMap hlen]
  refine List.flatMap_congr fun m hm => ?_
  rw [hreads m (List.mem_range.mp hm) _ (hcontents _ (Nat.mod_lt _ (Nat.pos_of_ne_zero hlen)))]

/-- Settles O44: the run plays one value a step, and the values are the contents where those are known. -/
theorem arbRunPlaysSlotsInOrder : Obligations.ArbRunPlaysSlotsInOrder := by
  refine fun s hrun hlen hindex => ⟨fun n => ?_, fun contents hcontents n => ?_⟩
  · obtain ⟨vs, fb, d, hn, hlength, -⟩ := runFor_arbitrary hrun hlen hindex n
    exact ⟨_, vs, hn, hrun, hlength, by rw [← hlength]; rfl⟩
  · obtain ⟨vs, fb, d, hn, hlength, hreads⟩ := runFor_arbitrary hrun hlen hindex n
    refine ⟨_, hn, ?_⟩
    rw [← hlength, ← playedEvents_eq_arbStreamPrefix hlen hreads hcontents]
    rfl

/-! ## The empty buffer (R126) -/

/-- Settles O45, by induction on the number of steps. -/
theorem emptyBufferRunsForever : Obligations.EmptyBufferRunsForever := by
  intro s hrun hlen n
  refine ⟨?_, fun chan contents first => ?_⟩
  · have hstep : step s = .next s := by rw [step_of_inArbitrary hrun, State.arbStep, if_pos hlen]
    induction n with
    | zero => rfl
    | succ n ih => rw [runFor_succ n hstep, ih]
  · cases n with
    | zero => rfl
    | succ n => rw [arbStreamPrefix, if_pos hlen]

end Sys2Proof.Proofs

/-!
The agents outside the block: a host write between two steps and inside one (20_memory.md sections 7 and 8), the reset, and
boot (70_reset_and_hazards.md sections 1 and 2).
-/
namespace Sys2Proof.Proofs

open Sys2Proof.Machine Sys2Proof.Safety Sys2Proof.Laws

/-! ## A running operation does not look at the command register (10_state.md section 4) -/

/-- The step of a running dispatcher with another word in the register: the same step, with that word kept or cleared. -/
theorem runStep_spec {s : State} (hrunning : s.dispState = .running) :
    ∃ t, s.runStep = .next t ∧ t.op = s.op ∧ ∀ w, ({ s with cmdreg := w } : State).runStep =
      .next { t with cmdreg := if t.dispState = .running then w else 0#32 } := by
  cases hmode : s.op.mode with
  | noop => exact ⟨s.complete, by rw [State.runStep, hmode], rfl, fun w => by rw [State.runStep, hmode]; rfl⟩
  | fixed => exact ⟨s.complete, by rw [State.runStep, hmode], rfl, fun w => by rw [State.runStep, hmode]; rfl⟩
  | triangle =>
    by_cases hphase : s.tri.phase = .idle
    · exact ⟨s.complete, runStep_of_returned hmode hphase, rfl, fun w =>
        runStep_of_returned (s := { s with cmdreg := w }) hmode hphase⟩
    · have hdisp : s.triStep.dispState = .running := (triStep_dispState s).trans hrunning
      refine ⟨s.triStep, runStep_triangle hmode hphase, triStep_op s, fun w => ?_⟩
      rw [runStep_triangle (s := { s with cmdreg := w }) hmode hphase, triStep_setCmdreg, if_pos hdisp]
  | arbitrary =>
    obtain ⟨t, ht, hop, hdisp⟩ : ∃ t, s.arbStep = .next t ∧ t.op = s.op ∧ t.dispState = s.dispState := by
      rcases arbStep_spec s with ⟨-, h⟩ | ⟨-, v, d, h, -⟩
      · exact ⟨_, h, rfl, rfl⟩
      · exact ⟨_, h, rfl, rfl⟩
    refine ⟨t, (runStep_arbitrary hmode).trans ht, hop, fun w => ?_⟩
    rw [runStep_arbitrary (s := { s with cmdreg := w }) hmode, arbStep_setCmdreg ht, hdisp, if_pos hrunning]

/-- A running block alone takes its generator's step. -/
theorem step_running {s : State} (halone : Alone s) (hrunning : s.dispState = .running) : step s = s.runStep := by
  obtain ⟨hwf, hfront, hboot, hagenda⟩ := halone
  rw [step_of_agenda_nil hwf hagenda, blockStep_running hboot hfront hrunning]

/-- Settles O6: the four latches are the word's fields, and `runStep_spec` says the rest; the word in the register itself is
one of the words that it may be run with. -/
theorem operandsAreLatchedOnce : Obligations.OperandsAreLatchedOnce := by
  refine ⟨fun s hready hbusy => ?_, fun s w halone hrunning => ?_⟩
  · obtain ⟨t, ht, hop⟩ := step_ready_latches hready hbusy
    refine ⟨t, ht, ?_⟩
    rw [hop]
    exact ⟨rfl, extractLsb'_toNat_eq_shift_and s.cmdreg 16, extractLsb'_toNat_eq_shift_and s.cmdreg 20,
      extractLsb'_toNat_eq_shift_and s.cmdreg 8⟩
  · obtain ⟨t, ht, hop, hset⟩ := runStep_spec hrunning
    have hreg : t = { t with cmdreg := if t.dispState = .running then s.cmdreg else 0#32 } :=
      Host.Outcome.next.inj (ht.symm.trans (hset s.cmdreg))
    refine ⟨t, (step_running halone hrunning).trans ht, hop, congrArg State.cmdreg hreg, ?_⟩
    exact (step_running (s := { s with cmdreg := w }) halone hrunning).trans (hset w)

/-! ## A host write between two steps -/

theorem runFor_one (s : State) : runFor 1 s = step s := by
  rw [runFor]
  cases step s <;> rfl

/-- Settles O52: after the write the block is alone, and polls the written word or runs on without looking at it. -/
theorem hostWriteIsSeenByTheNextPoll : Obligations.HostWriteIsSeenByTheNextPoll := by
  intro s w hwf hfront hboot hagenda
  have hwrite := step_hostWrite hwf hfront hagenda
  have halone : Alone { s with agenda := [] } := ⟨hwf, hfront, hboot, rfl⟩
  have halone' : Alone { s with cmdreg := w, agenda := [] } := ⟨hwf, hfront, hboot, rfl⟩
  rw [runFor_succ 1 hwrite, runFor_one]
  refine ⟨fun hpolling => step_of_ready ⟨halone', hpolling⟩, fun hrunning => ?_⟩
  obtain ⟨t, ht, -, hset⟩ := runStep_spec (s := { s with agenda := [] }) hrunning
  exact ⟨t, (step_running halone hrunning).trans ht, (step_running halone' hrunning).trans (hset w)⟩

/-! ## A host write inside a step (decision D14) -/

section
variable {s : State} {k : Nat} {w : Word32} {rest : List Move} (hwf : s.cfg.wf = true) (hfront : s.cfg.frontEnd = true)
  (hagenda : s.agenda = .hostWriteIn k w :: rest)
include hwf hfront hagenda

theorem step_hostWriteIn : step s = ({ s with agenda := rest } : State).hostWriteIn k w :=
  (step_of_agenda_cons hwf hagenda).trans (if_pos hfront)

theorem step_hostWriteIn_zero (hk : k = 0) : step s = blockStep { s with cmdreg := w, agenda := rest } := by
  rw [step_hostWriteIn hwf hfront hagenda, hk, hostWriteIn_zero]

/-- A write after the first event leaves the step as it was, and a clear that is still to come erases it. -/
theorem step_hostWriteIn_inside (hk : k ≠ 0) {t : State} {evs : List Event}
    (hstep : blockStep { s with agenda := rest } = .next t) (htrace : t.trace = s.trace ++ evs) :
    step s = .next { t with cmdreg := if (evs.drop k).any isClear then 0#32 else w } := by
  obtain ⟨u, hu, hwrite⟩ := hostWriteIn_spec hk w { s with agenda := rest }
  obtain ⟨evs', hframe⟩ := blockStep_frame hstep
  cases hu.symm.trans hstep
  obtain rfl : evs' = evs := List.append_cancel_left (hframe.trace.symm.trans htrace)
  rw [step_hostWriteIn hwf hfront hagenda, hwrite, State.overwrittenAfter, eventsOfStep_append hframe.trace,
    contains_clear_eq_any, hframe.cmdreg]
  by_cases hclear : (evs'.drop k).any isClear = true
  · obtain ⟨e, he, hisClear⟩ := List.any_eq_true.mp hclear
    rw [if_pos hclear, if_pos hclear, if_pos (List.any_eq_true.mpr ⟨e, List.mem_of_mem_drop he, hisClear⟩)]
  · rw [if_neg hclear, if_neg hclear]

end

/-- Of events that end with a clear, the clear is still to come unless all have happened. -/
theorem any_isClear_drop_concat (evs : List Event) (k : Nat) :
    ((evs ++ [Event.clear]).drop k).any isClear = true ↔ k < evs.length + 1 := by
  rcases Nat.lt_or_ge k (evs.length + 1) with hlt | hge
  · rw [List.drop_append_of_le_length (by omega), List.any_append]
    simp [isClear, hlt]
  · rw [List.drop_eq_nil_of_le (by rw [List.length_append, List.length_singleton]; exact hge)]
    simpa using hge

/-- The dispatch of a no-op or a fixed word is one step that ends with the clear, its second or third event. -/
theorem exec_ends_with_clear {w : Word32} (hbusy : w.toNat % 2 = 1) (hmode : modeOf w = .noop ∨ modeOf w = .fixed)
    (s : State) :
    ∃ t evs, exec (decodeCommand w) s = .next t ∧ t.trace = s.trace ++ (evs ++ [.clear]) ∧
      evs.length + 1 = if modeOf w = .noop then 2 else 3 := by
  rcases word_cases w with hidle | hfixed | htri | harb | hnop
  · omega
  · rw [decodeCommand_fixed hfixed, exec, execFixed_eq, modeOf_fixed hfixed]
    exact ⟨_, .poll s.cmdreg :: fixedTrace (channelSelector w) (valueOrDelay w), rfl, rfl, rfl⟩
  · simp [modeOf_triangle htri] at hmode
  · simp [modeOf_arbitrary harb] at hmode
  · rw [decodeCommand_nop hnop, exec, execNop_eq, modeOf_noop hnop]
    exact ⟨_, [.poll s.cmdreg], rfl, rfl, rfl⟩

/-- Settles O59: the two kinds of write, and for a no-op, a fixed word and a triangle's clear the events of the step. -/
theorem hostWriteInsideAStepIsLostAtTheClear : Obligations.HostWriteInsideAStepIsLostAtTheClear := by
  refine ⟨fun s w rest hwf hfront hagenda => step_hostWriteIn_zero hwf hfront hagenda rfl,
    fun s k w rest hwf hfront hagenda hk => ?_,
    fun s k w rest hwf hfront hboot hpolling hbusy hmode hagenda hk => ?_,
    fun s k w rest hwf hfront hboot hrunning hmode hphase hagenda => ?_⟩
  · obtain ⟨t, ht⟩ := blockStep_next { s with agenda := rest }
    obtain ⟨evs, hframe⟩ := blockStep_frame ht
    exact ⟨t, evs, ht, hframe.trace, step_hostWriteIn_inside hwf hfront hagenda hk ht hframe.trace⟩
  · obtain ⟨t, evs, ht, htrace, hlength⟩ := exec_ends_with_clear ((busy_iff s).mp hbusy) hmode { s with agenda := rest }
    have hstep : blockStep { s with agenda := rest } = .next t :=
      (blockStep_polling (s := { s with agenda := rest }) hboot hfront hpolling).trans ht
    refine ⟨t, ht, ?_⟩
    rw [step_hostWriteIn_inside hwf hfront hagenda hk hstep htrace]
    simp only [any_isClear_drop_concat, hlength]
  · have hclear (u : Word32) : blockStep { s with cmdreg := u, agenda := rest } =
        .next ({ s with cmdreg := u, agenda := rest } : State).complete :=
      (blockStep_running (s := { s with cmdreg := u, agenda := rest }) hboot hfront hrunning).trans
        (runStep_of_returned hmode hphase)
    by_cases hk : k = 0
    · rw [step_hostWriteIn_zero hwf hfront hagenda hk, hclear w, if_pos hk]
      rfl
    · rw [step_hostWriteIn_inside hwf hfront hagenda hk (hclear s.cmdreg) (evs := [] ++ [.clear]) rfl, if_neg hk,
        if_neg (by rw [any_isClear_drop_concat, List.length_nil]; omega)]
      rfl

/-! ## Boot (R152) -/

/-- Settles O48: the reset state's own fields, and an empty memory in which every read finds nothing. -/
theorem resetLeavesTheStatedValues : Obligations.ResetLeavesTheStatedValues :=
  ⟨fun _ => ⟨rfl, rfl, rfl, rfl, rfl, rfl, rfl, fun _ => rfl⟩, rfl⟩

/-- The machine in boot after the start-up frames `sent`, with the frames `left` still to send, when boot began in `s`. -/
def sendingState (s : State) (sent left : List Frame) : State :=
  { s with
    boot := .sending left
    devHandle := .configured
    fb := sent.getLastD s.fb
    trace := s.trace ++ sent.map .tx }

/-- The machine after a whole boot that began in `s`. -/
def bootedState (s : State) : State := { sendingState s s.cfg.initFrames [] with boot := .done }

section
variable {s : State} (hwf : s.cfg.wf = true) (hagenda : s.agenda = [])
include hwf hagenda

theorem step_opening (hboot : s.boot = .opening) :
    step s = .next { s with devHandle := .opened, boot := .configuring } := by
  rw [step_of_agenda_nil hwf hagenda, blockStep, hboot]
  simp only [State.bootStep, hboot]

/-- The two calls, `open` and `configure`. -/
theorem runFor_open_configure (hboot : s.boot = .opening) : runFor 2 s = .next (sendingState s [] s.cfg.initFrames) := by
  have hconfigure : step { s with devHandle := .opened, boot := .configuring } =
      .next { s with devHandle := .configured, boot := .sending s.cfg.initFrames } :=
    step_of_agenda_nil (s := { s with devHandle := .opened, boot := .configuring }) hwf hagenda
  rw [runFor_succ 1 (step_opening hwf hagenda hboot), runFor_one, hconfigure, sendingState, List.map_nil, List.append_nil]
  rfl

theorem step_sendingState (sent left : List Frame) (f : Frame) :
    step (sendingState s sent (f :: left)) = .next (sendingState s (sent ++ [f]) left) := by
  rw [step_of_agenda_nil (s := sendingState s sent (f :: left)) hwf hagenda, sendingState, sendingState, List.map_append,
    List.getLastD_concat, ← List.append_assoc]
  rfl

/-- The first `k` start-up frames. -/
theorem runFor_sending (hboot : s.boot = .opening) {k : Nat} (hk : k ≤ s.cfg.initFrames.length) :
    runFor (2 + k) s = .next (sendingState s (s.cfg.initFrames.take k) (s.cfg.initFrames.drop k)) := by
  induction k with
  | zero => exact runFor_open_configure hwf hagenda hboot
  | succ k ih =>
    have hstep := step_sendingState hwf hagenda (s.cfg.initFrames.take k) (s.cfg.initFrames.drop (k + 1))
      s.cfg.initFrames[k]
    rw [← List.drop_eq_getElem_cons, ← List.take_succ_eq_append_getElem] at hstep
    exact runFor_snoc (ih (by omega)) hstep

/-- The whole of boot. -/
theorem runFor_boot (hboot : s.boot = .opening) : runFor (3 + s.cfg.initFrames.length) s = .next (bootedState s) := by
  have hsent := runFor_sending hwf hagenda hboot le_rfl
  rw [List.take_length, List.drop_length] at hsent
  rw [show 3 + s.cfg.initFrames.length = 2 + s.cfg.initFrames.length + 1 by omega]
  exact runFor_snoc hsent (step_of_agenda_nil (s := sendingState s s.cfg.initFrames []) hwf hagenda)

end

/-- Settles O49: the states of boot one after the other. -/
theorem bootRunsInOrder : Obligations.BootRunsInOrder := by
  intro p hwf
  have hopen := step_opening (s := State.resetWith p) hwf rfl rfl
  refine ⟨fun k hk => ?_, ⟨_, runFor_succ 0 hopen, rfl⟩,
    ⟨_, runFor_open_configure (s := State.resetWith p) hwf rfl rfl, rfl, rfl⟩,
    ⟨_, runFor_boot (s := State.resetWith p) hwf rfl rfl, rfl, rfl, rfl, rfl, rfl⟩⟩
  match k with
  | 0 => exact ⟨_, rfl, BootStage.noConfusion, rfl, rfl, rfl⟩
  | 1 => exact ⟨_, runFor_succ 0 hopen, BootStage.noConfusion, rfl, rfl, rfl⟩
  | j + 2 =>
    have hsent := runFor_sending (s := State.resetWith p) hwf rfl rfl (k := j) (by change j ≤ p.initFrames.length; omega)
    rw [Nat.add_comm 2 j] at hsent
    exact ⟨_, hsent, BootStage.noConfusion, rfl, rfl, rfl⟩

/-! ## Reset (R150, R151) -/

/-- The step in which the environment's reset falls. -/
theorem step_reset {s : State} {r : ResetMove} {rest : List Move} (hwf : s.cfg.wf = true)
    (hagenda : s.agenda = .reset r :: rest) :
    ∃ u evs, blockStep { s with agenda := rest } = .next u ∧ u.trace = s.trace ++ evs ∧
      step s = .next ((({ s with agenda := rest } : State).cutAfter r.afterEvents u).envReset r) ∧
      ({ s with agenda := rest } : State).eventsOfStep u = evs := by
  obtain ⟨u, hu, hreset⟩ := resetDuring_spec r { s with agenda := rest }
  obtain ⟨evs, hframe⟩ := blockStep_frame hu
  refine ⟨u, evs, hu, hframe.trace, ?_, eventsOfStep_append hframe.trace⟩
  rw [step_of_agenda_cons hwf hagenda, applyMove, hreset]

/-- Settles O50: the cut keeps the first events and a clear among them, and the reset writes the rest. -/
theorem resetAbandonsTheOperation : Obligations.ResetAbandonsTheOperation := by
  intro s r rest hwf hagenda
  obtain ⟨u, evs, hu, htrace, hstep, hevs⟩ := step_reset hwf hagenda
  refine ⟨_, u, evs, hstep, hu, htrace, ?_, fun hzero => ?_, rfl, rfl, rfl, rfl, rfl, rfl, ?_⟩
  · rw [envReset_trace, State.cutAfter, hevs]
  · rw [envReset_trace, State.cutAfter, hevs, hzero]
    exact List.append_nil _
  · rw [envReset_cmdreg, State.cutAfter, hevs, contains_clear_eq_any]

/-- Settles O51: the reset keeps register and trace, boot leads to a ready state, and the poll there accepts the word. -/
theorem resetAloneRestartsTheCommand : Obligations.ResetAloneRestartsTheCommand := by
  intro s r hwf hfront hagenda hbetween hkeeps hbusy
  obtain ⟨t, u, evs, hstep, -, -, -, htrace, hpolling, -, -, hboot, hcfg, hnil, hreg⟩ :=
    resetAbandonsTheOperation s r [] hwf hagenda
  rw [hkeeps, hbetween] at hreg
  have hkept : t.cmdreg = s.cmdreg := hreg
  have hwf' : t.cfg.wf = true := by rwa [hcfg]
  have hready : Ready (bootedState t) := ⟨⟨hwf', by rwa [← hcfg] at hfront, rfl, hnil⟩, hpolling⟩
  refine ⟨bootedState t, ?_, hready, hkept, ?_, ?_⟩
  · rw [show 4 + s.cfg.initFrames.length = 3 + s.cfg.initFrames.length + 1 by omega, runFor_succ _ hstep, ← hcfg]
    exact runFor_boot hwf' hnil hboot
  · rw [← htrace hbetween, ← hcfg]
    rfl
  · rw [step_of_ready hready, ← hkept]
    rw [busy_iff, ← hkept] at hbusy
    exact exec_busy_trace hbusy (bootedState t)

end Sys2Proof.Proofs
